-- ==== Sys2Proof/Word.lean ====
section
/-! DEFINITION. The word types of the fxkr/usb-led control block: spec/00_scope.md rule R10 (unsigned values of a stated
width, bit 0 the least significant) and rule R9 (the widths). -/

namespace Sys2Proof

/-- One byte of a command packet, or one gamma entry. -/
abbrev Byte := BitVec 8

/-- A DeviceState register, a command operand, the integrity check (00_scope.md rule R9, `CH_WIDTH` = 16). -/
abbrev Word16 := BitVec 16

/-- The millisecond counter: W = `TIME_WIDTH` = 32 bits (00_scope.md rule R9; log 8). -/
abbrev Time := BitVec 32

/-- One frame of the LED, 24 bits (00_scope.md rule R9, `FRAME_BITS`). -/
abbrev Frame := BitVec 24

/-- The 80-bit packet word, the `cmd_pkt` port (00_scope.md rule R8, 30_encoding.md rule R99). -/
abbrev PacketWord := BitVec 80

/-- An index of the gamma ROM, 0 to 511 (20_memory.md rule R61). -/
abbrev GammaIndex := BitVec 9

end Sys2Proof
end

