-- ==== Sys2Proof/Config.lean ====
section
/-! DEFINITION. What is fixed for the hardware and what it leaves free: the parameters of spec/00_scope.md rule R9 and the
gamma ROM of 43_led_serializer.md rules R193 to R197. -/

namespace Sys2Proof

/-! ## Parameters (00_scope.md rule R9) -/

/-- `INTEGRITY_RESIDUE` (30_encoding.md rule R97). -/
def Config.integrityResidue : Word16 := 0x4FFE#16

/-- `PKT_BYTES` (30_encoding.md rule R90). -/
def Config.packetBytes : Nat := 10

/-- `FADE_RATE_RESET` (10_state.md rule R20). -/
def Config.fadeRateReset : Word16 := 256#16

/-- `HEARTBEAT_PERIOD`, in ticks (42_fade_blink_engine.md rule R178). -/
def Config.heartbeatPeriod : Time := 1000#32

/-- `HEARTBEAT_OFF`, in ticks (42_fade_blink_engine.md rule R178). -/
def Config.heartbeatOff : Time := 10#32

/-- `T0H`, nominal nanoseconds (43_led_serializer.md rule R202; tolerance left out, log 15). -/
def Config.t0hNs : Nat := 350

/-- `T1H`, nominal nanoseconds (43_led_serializer.md rule R202). -/
def Config.t1hNs : Nat := 900

/-- `TSLOT`, nominal nanoseconds (43_led_serializer.md rule R202). -/
def Config.slotNs : Nat := 1250

/-- `TLATCH`, a lower bound in nanoseconds (43_led_serializer.md rule R203). -/
def Config.latchMinNs : Nat := 50000

/-- `CLK_HZ` of the reference design; informative (00_scope.md rule R9). -/
def Config.clkHz : Nat := 16500000

/-- `PRESCALE` of the reference design; informative. -/
def Config.prescale : Nat := 128

/-- `TICK_COUNT` of the reference design; informative (41_timer.md rule R150). -/
def Config.tickCount : Nat := 129

/-! ## The gamma ROM -/

/-- The four exact properties of every gamma table: G-MONO, G-ZERO, G-ONLYZERO, G-RANGE, in this order
(43_led_serializer.md rule R194). G-SHAPE has no exact form and "a model must not rely on it". -/
abbrev Config.GammaAdmissible (g : GammaIndex → Byte) : Prop :=
  (∀ i j : Fin 512, i < j → g (BitVec.ofFin i) ≤ g (BitVec.ofFin j)) ∧
  g 0#9 = 0#8 ∧
  (∀ i : Fin 512, i ≠ 0 → 1#8 ≤ g (BitVec.ofFin i)) ∧
  (∀ y : Fin 256, ∃ i : Fin 512, g (BitVec.ofFin i) = BitVec.ofFin y)

/-- `GAMMA_REF[i] = ceil(255 * i * i / (511 * 511))` (43_led_serializer.md rule R197), the spec's own invention: used in tests,
and below only so that `Config.gamma` has a value where the free table is not admissible. -/
def Config.gammaRef (i : GammaIndex) : Byte :=
  BitVec.ofNat 8 ((255 * i.toNat * i.toNat + 511 * 511 - 1) / (511 * 511))

/-- FREE VALUE: the contents of the device's gamma ROM (43_led_serializer.md rule R193; log 2). -/
opaque Config.gammaFree : GammaIndex → Byte

/-- `GAMMA`: the free table where it is admissible. A proof may use that it meets rule R194 (Laws/Gamma.lean) and nothing
more, as rule R193 says; every admissible table is among its possible values (log 2). -/
def Config.gamma : GammaIndex → Byte :=
  if Config.GammaAdmissible Config.gammaFree then Config.gammaFree else Config.gammaRef

end Sys2Proof
end

