-- ==== Sys2Proof/Syntax.lean ====
section
/-! DEFINITION. The commands of the block (spec/30_encoding.md rule R101), the packet that carries one (rule R91), and what a
packet can decode to (rules R100, R104). -/

namespace Sys2Proof

/-- The eleven commands, one constructor per row of spec/opcode_table.json, with the operand fields each one reads
(30_encoding.md rule R101); a field a command does not read is no part of it (rule R103). -/
inductive Instr where
  /-- `RESET`, opcode 0. -/
  | reset
  /-- `COMMIT`, opcode 1. -/
  | commit
  /-- `SET_STATUS value`, opcode 2. -/
  | setStatus (value : Word16)
  /-- `SET_RED value`, opcode 3. -/
  | setRed (value : Word16)
  /-- `SET_GREEN value`, opcode 4. -/
  | setGreen (value : Word16)
  /-- `SET_BLUE value`, opcode 5. -/
  | setBlue (value : Word16)
  /-- `FADE_RED value`, opcode 6. -/
  | fadeRed (value : Word16)
  /-- `FADE_GREEN value`, opcode 7. -/
  | fadeGreen (value : Word16)
  /-- `FADE_BLUE value`, opcode 8. -/
  | fadeBlue (value : Word16)
  /-- `SET_FADE_RATE value`, opcode 9. -/
  | setFadeRate (value : Word16)
  /-- `SET_BLINK value, index`, opcode 10: `value` is the duty, `index` the period. -/
  | setBlink (value index : Word16)
deriving DecidableEq, Repr

/-- `STOP_FADE`, a pseudo-command (30_encoding.md rule R106). -/
abbrev Instr.stopFade : Instr := .setFadeRate 0#16

/-- `BLINK_OFF`, a pseudo-command (30_encoding.md rule R106). -/
abbrev Instr.blinkOff : Instr := .setBlink 0#16 0#16

/-- The fields of format `CMD10` (30_encoding.md rule R91), multi-byte fields assembled. -/
structure Packet where
  reqtype : Byte
  opcode : Byte
  value : Word16
  index : Word16
  length : Word16
  trailer : Word16
deriving DecidableEq, Repr

/-- What a packet holds beside the opcode and the operands its command reads: `reqtype`, `length`, and the content of `value`
and `index` where the command ignores them (30_encoding.md rules R95, R103). -/
structure Spare where
  reqtype : Byte
  length : Word16
  value : Word16
  index : Word16
deriving DecidableEq, Repr

/-- What the bytes at the command port decode to (30_encoding.md rules R100, R104); `wrongLength` is no packet at all
(20_memory.md rule R62). -/
inductive Decoded where
  /-- The integrity check failed (30_encoding.md rule R97). -/
  | dropped
  /-- Opcode 11 to 255 in a packet that passes the check (30_encoding.md rule R102). -/
  | unrecognized (op : Byte)
  /-- One of the eleven commands. -/
  | command (i : Instr)
  /-- Not 10 bytes: never presented to the block (20_memory.md rule R62; log 7). -/
  | wrongLength (n : Nat)
deriving DecidableEq, Repr

end Sys2Proof
end

