-- ==== Sys2Proof/WellFormed.lean ====
section
/-! DEFINITION. The checks on what the model is given. A command's operands are 16-bit vectors, and "every 16-bit `value` and
`index` is legal for every opcode" (spec/60_exceptions.md rule R221), so every `Instr` is well formed and needs no check; a
packet must have 10 bytes (20_memory.md rule R62). -/

namespace Sys2Proof

/-- A packet as the transport delivers it: 10 bytes (20_memory.md rule R62). -/
def packetWf (bytes : List Byte) : Bool := bytes.length == Config.packetBytes

end Sys2Proof
end

