-- ==== Sys2Proof/Decode.lean ====
section
/-! DEFINITION. Packet fields, the integrity gate and decode (spec/30_encoding.md rules R91 to R104), then the encoder, written
from the same rules. -/

namespace Sys2Proof

/-! ## The integrity function (30_encoding.md rule R98; log 3) -/

/-- `n` of the eight shifts a byte takes. -/
def crcBits : Nat → Word16 → Word16
  | 0, crc => crc
  | n + 1, crc => if crc.getLsbD 0 then crcBits n ((crc >>> 1) ^^^ 0xA001#16) else crcBits n (crc >>> 1)

/-- One byte into the check. -/
def crcByte (crc : Word16) (b : Byte) : Word16 := crcBits 8 (crc ^^^ b.setWidth 16)

/-- `integrity16`: CRC-16/USB over the bytes, `b[0]` first. -/
def integrity16 (bytes : List Byte) : Word16 := bytes.foldl crcByte 0xFFFF#16 ^^^ 0xFFFF#16

/-! ## Packet layout (30_encoding.md rules R91 to R96, 20_memory.md rule R63; log 4) -/

/-- The low byte of a 16-bit word: the one at the lower offset (20_memory.md rule R63). -/
def Word16.lo (w : Word16) : Byte := w.extractLsb' 0 8

/-- The high byte of a 16-bit word. -/
def Word16.hi (w : Word16) : Byte := w.extractLsb' 8 8

/-- `{hi, lo}`: the 16-bit word of two bytes, `lo` at the lower offset. -/
def Word16.ofBytes (lo hi : Byte) : Word16 := hi ++ lo

/-- The fields of a 10-byte packet; `none` for any other length. -/
def Packet.ofBytes : List Byte → Option Packet
  | [b0, b1, b2, b3, b4, b5, b6, b7, b8, b9] =>
    some { reqtype := b0, opcode := b1, value := Word16.ofBytes b2 b3, index := Word16.ofBytes b4 b5,
           length := Word16.ofBytes b6 b7, trailer := Word16.ofBytes b8 b9 }
  | _ => none

/-- The first eight bytes, the setup packet. -/
def Packet.setupBytes (p : Packet) : List Byte :=
  [p.reqtype, p.opcode, p.value.lo, p.value.hi, p.index.lo, p.index.hi, p.length.lo, p.length.hi]

/-- All ten bytes, `b[0]` first. -/
def Packet.bytes (p : Packet) : List Byte := p.setupBytes ++ [p.trailer.lo, p.trailer.hi]

/-! ## Decode (30_encoding.md rules R100 to R103) -/

/-- The opcode map (30_encoding.md rule R101). -/
def dispatchOpcode (op : Byte) (value index : Word16) : Decoded :=
  match op.toNat with
  | 0 => .command .reset
  | 1 => .command .commit
  | 2 => .command (.setStatus value)
  | 3 => .command (.setRed value)
  | 4 => .command (.setGreen value)
  | 5 => .command (.setBlue value)
  | 6 => .command (.fadeRed value)
  | 7 => .command (.fadeGreen value)
  | 8 => .command (.fadeBlue value)
  | 9 => .command (.setFadeRate value)
  | 10 => .command (.setBlink value index)
  | _ => .unrecognized op

/-- `integrity_ok` for an integrity function (30_encoding.md rule R97). -/
def integrityOkWith (integrity : List Byte → Word16) (bytes : List Byte) : Bool :=
  integrity bytes == Config.integrityResidue

/-- `decode` with the integrity function as an argument (30_encoding.md rules R98, R100): the gate first, then the opcode. -/
def decodeWith (integrity : List Byte → Word16) (bytes : List Byte) : Decoded :=
  match Packet.ofBytes bytes with
  | none => .wrongLength bytes.length
  | some p =>
    if integrityOkWith integrity bytes then dispatchOpcode p.opcode p.value p.index else .dropped

/-- `integrity_ok` (30_encoding.md rules R97, R98). -/
def integrityOk (bytes : List Byte) : Bool := integrityOkWith integrity16 bytes

/-- `decode`, total on any bytes (30_encoding.md rule R100). -/
def decode (bytes : List Byte) : Decoded := decodeWith integrity16 bytes

/-! ## The encoder -/

/-- The opcode byte of a command (30_encoding.md rule R101). -/
def Instr.opcode : Instr → Byte
  | .reset => 0#8
  | .commit => 1#8
  | .setStatus _ => 2#8
  | .setRed _ => 3#8
  | .setGreen _ => 4#8
  | .setBlue _ => 5#8
  | .fadeRed _ => 6#8
  | .fadeGreen _ => 7#8
  | .fadeBlue _ => 8#8
  | .setFadeRate _ => 9#8
  | .setBlink _ _ => 10#8

/-- The `value` operand of a command that reads one. -/
def Instr.valueOperand : Instr → Option Word16
  | .reset => none
  | .commit => none
  | .setStatus v => some v
  | .setRed v => some v
  | .setGreen v => some v
  | .setBlue v => some v
  | .fadeRed v => some v
  | .fadeGreen v => some v
  | .fadeBlue v => some v
  | .setFadeRate v => some v
  | .setBlink v _ => some v

/-- The `index` operand of the one command that reads it (30_encoding.md rule R94). -/
def Instr.indexOperand : Instr → Option Word16
  | .reset => none
  | .commit => none
  | .setStatus _ => none
  | .setRed _ => none
  | .setGreen _ => none
  | .setBlue _ => none
  | .fadeRed _ => none
  | .fadeGreen _ => none
  | .fadeBlue _ => none
  | .setFadeRate _ => none
  | .setBlink _ n => some n

/-- What the transport does with a setup packet: it appends the trailer, low byte first (30_encoding.md rules R96, R98). -/
def appendTrailer (setup : List Byte) : List Byte :=
  setup ++ [(integrity16 setup).lo, (integrity16 setup).hi]

/-- The setup packet of a command, everything it does not read taken from `spare`. -/
def setupOf (spare : Spare) (i : Instr) : List Byte :=
  Packet.setupBytes
    { reqtype := spare.reqtype, opcode := i.opcode, value := i.valueOperand.getD spare.value,
      index := i.indexOperand.getD spare.index, length := spare.length, trailer := 0#16 }

/-- A packet that carries a command, with any content in the ignored fields. -/
def encodeWith (spare : Spare) (i : Instr) : List Byte := appendTrailer (setupOf spare i)

/-- The usual content of the ignored fields: `reqtype = 0x40`, the rest 0 (30_encoding.md rule R105). -/
def Spare.usual : Spare := { reqtype := 0x40#8, length := 0#16, value := 0#16, index := 0#16 }

/-- The packet of a command as 30_encoding.md rule R105 writes it. -/
def encode (i : Instr) : List Byte := encodeWith Spare.usual i

/-- `RAW op, value, index` (30_encoding.md rule R105). -/
def encodeRaw (op : Byte) (value index : Word16) : List Byte :=
  appendTrailer (Packet.setupBytes
    { reqtype := 0x40#8, opcode := op, value := value, index := index, length := 0#16, trailer := 0#16 })

/-! ## The 80-bit packet word (30_encoding.md rule R99) -/

/-- `P = sum over k of b[k] << (8*k)` (30_encoding.md rule R99). -/
def wordOfPacket : List Byte → PacketWord
  | [] => 0#80
  | b :: bs => b.setWidth 80 + (wordOfPacket bs <<< 8)

/-- The ten bytes of a packet word: `b[k]` is `P[8k+7:8k]` (30_encoding.md rule R99). Nothing is added or replaced. -/
def packetOfWord (P : PacketWord) : List Byte :=
  [P.extractLsb' 0 8, P.extractLsb' 8 8, P.extractLsb' 16 8, P.extractLsb' 24 8, P.extractLsb' 32 8,
   P.extractLsb' 40 8, P.extractLsb' 48 8, P.extractLsb' 56 8, P.extractLsb' 64 8, P.extractLsb' 72 8]

/-- `decode` of a packet word as it stands on the `cmd_pkt` port (00_scope.md rule R8, 30_encoding.md rule R99). -/
def decodeWord (P : PacketWord) : Decoded := decode (packetOfWord P)

/-- The mask of every row of the opcode table (30_encoding.md rule R99). -/
def rowMask : PacketWord := 0xFF00#80

/-- The match of a command's row (30_encoding.md rule R99). -/
def rowMatch (i : Instr) : PacketWord := i.opcode.setWidth 80 <<< 8

/-! ## Words of the opcode table, for the host (log 24) -/

/-- A packet with the trailer the transport appends (30_encoding.md rule R96) where the two trailer bytes given are 0; any other packet
as it is. It serves `tablePacket` alone: no row of the table gives the trailer any bits (log 24). -/
def completeTrailer (bytes : List Byte) : List Byte :=
  if bytes.drop 8 = [0#8, 0#8] then appendTrailer (bytes.take 8) else bytes

/-- The packet of a table word of `nbits` bits: its exact bytes, the trailer completed. -/
def tablePacket (nbits w : Nat) : List Byte := completeTrailer (packetOfWord (BitVec.ofNat 80 (w % 2 ^ nbits)))

/-- The instruction the decoder reads from a table word. -/
def decodeTableWord (nbits w : Nat) : Option Instr :=
  match decode (tablePacket nbits w) with
  | .command i => some i
  | .dropped => none
  | .unrecognized _ => none
  | .wrongLength _ => none

end Sys2Proof
end

