-- ==== Sys2Proof/Machine/State.lean ====
section
/-! DEFINITION. The state of the block as plain data (spec/10_state.md), what its environment can do to it
(60_exceptions.md rule R240), the reasons a step can stop, and the state after reset (10_state.md rule R46). -/

namespace Sys2Proof.Machine

/-- Three 16-bit channel values, in the logical order red, green, blue. -/
@[ext]
structure Rgb where
  red : Word16
  green : Word16
  blue : Word16
deriving DecidableEq, Repr

/-- All channels zero (00_scope.md rule R12, "Black"). -/
def Rgb.black : Rgb := { red := 0#16, green := 0#16, blue := 0#16 }

/-- `seq`: what the sequencer is doing (10_state.md rule R31). -/
inductive SeqState where
  | idle
  | cmd
  | poll
deriving DecidableEq, Repr

/-- `ser_state`: the phase of the LED Serializer (10_state.md rule R31, 43_led_serializer.md rule R200). -/
inductive SerState where
  | idle
  | shift
  | latch
deriving DecidableEq, Repr

/-- What a transaction still has to do once its `RENDER` returns (43_led_serializer.md rule R190: `RENDER` "is blocking for its
caller: it returns after the latch delay"; log 13). -/
inductive AfterRender where
  /-- Nothing: no `RENDER` is waited for, or it was the last thing its caller does (40_commands.md rule R131). -/
  | nothing
  /-- `SNAP()`, the end of `COMMIT_BODY()` (40_commands.md, helpers). -/
  | snap
  /-- `HEARTBEAT(t)`, the end of `ENGINE(t)` (42_fade_blink_engine.md rule R179). -/
  | heartbeat (t : Time)
deriving DecidableEq, Repr

/-- What comes from outside, and which agent moves next (20_memory.md rules R68 to R70; log 1). -/
inductive Input where
  /-- A compare-match pulse, `tick_ev` (41_timer.md rules R151, R152). -/
  | tickEv
  /-- The transport presents these bytes at the command port and the sequencer takes them (40_commands.md rule R120). -/
  | packet (bytes : List Byte)
  /-- The idle sequencer polls (42_fade_blink_engine.md rule R170). -/
  | poll
  /-- The idle sequencer polls and a compare-match falls in the cycle of its READ_AND_CLEAR (41_timer.md rule R154). -/
  | pollTick
  /-- The time of the serializer's present phase is over (43_led_serializer.md rule R200). -/
  | phaseEnd
  /-- The `bus_reset` pulse (60_exceptions.md rule R241). -/
  | busReset
  /-- Power-on reset, `rst_n` (70_reset_and_hazards.md rule R250). -/
  | powerOn
deriving DecidableEq, Repr

/-- The state of the block. `afterRender` and the last three fields are the model's own
(logs 1, 12, 13, 22). -/
@[ext]
structure State where
  /-- `cur.*`, x[0] to x[2] (10_state.md rule R20). -/
  cur : Rgb
  /-- `tgt.*`, x[3] to x[5] (10_state.md rule R20). -/
  tgt : Rgb
  /-- `rate`, x[6] (10_state.md rules R20, R24). -/
  rate : Word16
  /-- `duty`, x[7] (10_state.md rule R20). -/
  duty : Word16
  /-- `period`, x[8]; 0 means blinking disabled (10_state.md rule R20). -/
  period : Word16
  /-- `status` (10_state.md rule R32). -/
  status : Bool
  /-- `indicator`, the output port (10_state.md rule R36). -/
  indicator : Bool
  /-- `time`, the millisecond counter (10_state.md rule R35). -/
  time : Time
  /-- `updated`, the elapsed flag (10_state.md rule R33). -/
  updated : Bool
  /-- `irq_mask` (10_state.md rule R37). -/
  irqMask : Bool
  /-- `led_dout`, the LED data line (10_state.md rule R38). -/
  ledDout : Bool
  /-- `seq` (10_state.md rule R31). -/
  seq : SeqState
  /-- `ser_state` (10_state.md rule R31). -/
  serState : SerState
  /-- `bitcnt` (10_state.md rule R31). -/
  bitcnt : BitVec 5
  /-- `shreg` (10_state.md rule R31). -/
  shreg : Frame
  /-- How far the open transaction has come: what follows its `RENDER` (43_led_serializer.md rule R190; log 13). -/
  afterRender : AfterRender
  /-- `resp_len`, the output port (40_commands.md rule R134). -/
  respLen : BitVec 8
  /-- `frames`, the frame trace, oldest first (10_state.md rule R40). -/
  frames : List Frame
  /-- The response lengths handed back, one per `cmd_done` pulse, oldest first (00_scope.md rule R8; log 22). -/
  responses : List (BitVec 8)
  /-- The inputs still to come, oldest first (log 1). -/
  inputs : List Input
  /-- The grain: false, a `RENDER` is complete within its transaction's step (20_memory.md rule R69); true, the serializer's
  phases are steps of their own (43_led_serializer.md rule R200; log 12). -/
  phased : Bool
deriving DecidableEq, Repr

/-- The reasons the machine faults: none. "Every step of every agent is total" (60_exceptions.md rule R223). -/
inductive Fault where
deriving DecidableEq, Repr

/-- The reasons a step is refused. -/
inductive Refusal where
  /-- An instruction without a meaning, raised by `exec` alone; no instruction of this model raises it. Safe. -/
  | notModelled (mnemonic : String)
  /-- A packet that has not 10 bytes, raised by `step` (20_memory.md rule R62: "a model refuses a packet whose length is not 10
  bytes rather than give it a meaning"; log 7). Safe. -/
  | packetLength (n : Nat)
deriving DecidableEq, Repr

/-- The state after power-on reset (10_state.md rule R46, 70_reset_and_hazards.md rule R250; log 9). -/
def State.reset : State where
  cur := Rgb.black
  tgt := Rgb.black
  rate := Config.fadeRateReset
  duty := 0#16
  period := 0#16
  status := false
  indicator := false
  time := 0#32
  updated := false
  irqMask := false
  ledDout := false
  seq := .idle
  serState := .idle
  bitcnt := 0#5
  shreg := 0#24
  afterRender := .nothing
  respLen := 0#8
  frames := []
  responses := []
  inputs := []
  phased := false

end Sys2Proof.Machine
end

