-- ==== Sys2Proof/Machine/Operands.lean ====
section
/-! DEFINITION. What an operation names and how a channel value is read for output: the registers by name and by index
(spec/10_state.md rule R20), the gamma index (43_led_serializer.md rule R191) and the frame (rule R196). -/

namespace Sys2Proof.Machine

/-- The three channels (00_scope.md rule R12). -/
inductive Chan where
  | red
  | green
  | blue
deriving DecidableEq, Repr

/-- The nine DeviceState registers (10_state.md rule R20). -/
inductive Reg where
  | cur (c : Chan)
  | tgt (c : Chan)
  | rate
  | duty
  | period
deriving DecidableEq, Repr

/-- The index `i` of `x[i]` (10_state.md rule R20). -/
def Reg.index : Reg → Nat
  | .cur .red => 0
  | .cur .green => 1
  | .cur .blue => 2
  | .tgt .red => 3
  | .tgt .green => 4
  | .tgt .blue => 5
  | .rate => 6
  | .duty => 7
  | .period => 8

/-- One channel of a colour. -/
def Rgb.get (v : Rgb) : Chan → Word16
  | .red => v.red
  | .green => v.green
  | .blue => v.blue

/-- A colour with one channel replaced. -/
def Rgb.set (v : Rgb) (c : Chan) (x : Word16) : Rgb :=
  match c with
  | .red => { v with red := x }
  | .green => { v with green := x }
  | .blue => { v with blue := x }

/-- `v >> 7`, the top nine bits `v[15:7]` (43_led_serializer.md rule R191). -/
def gammaIndex (v : Word16) : GammaIndex := (v >>> 7).setWidth 9

/-- `{G8, R8, B8}` under a gamma table (43_led_serializer.md rules R190, R196). -/
def frameUnder (gamma : GammaIndex → Byte) (v : Rgb) : Frame :=
  gamma (gammaIndex v.green) ++ gamma (gammaIndex v.red) ++ gamma (gammaIndex v.blue)

/-- The frame the device sends for a colour. -/
def frameOf (v : Rgb) : Frame := frameUnder Config.gamma v

end Sys2Proof.Machine
end

