-- ==== Sys2Proof/Machine/Flags.lean ====
section
/-! DEFINITION. The one-bit values the operations compute: `status` (spec/40_commands.md rule R123), `changed`
(42_fade_blink_engine.md rule R173), the blink overlay (rules R174, R175) and the heartbeat (rule R178). There are no condition
codes (10_state.md rule R34). -/

namespace Sys2Proof.Machine

/-- `value != 0` (40_commands.md rule R123). -/
def statusFlag (value : Word16) : Bool := value != 0#16

/-- `changed`: some channel of `cur` differs from `tgt` on entry (42_fade_blink_engine.md rule R173; log 18). -/
def changedFlag (cur tgt : Rgb) : Bool :=
  cur.red != tgt.red || cur.green != tgt.green || cur.blue != tgt.blue

/-- What the blink overlay returns. -/
structure Overlay where
  refresh : Bool
  black : Bool
deriving DecidableEq, Repr

/-- `BLINK_OVERLAY(t)` (42_fade_blink_engine.md rules R174, R175): with `period = 0` no remainder is computed; otherwise both
instants refresh, and the `duty` instant is black even where it is also the `m = 0` instant. -/
def blinkOverlay (duty period : Word16) (t : Time) : Overlay :=
  if period = 0#16 then { refresh := false, black := false }
  else
    let m := t % period.setWidth 32
    { refresh := m == 0#32 || m == duty.setWidth 32, black := m == duty.setWidth 32 }

/-- `HEARTBEAT(t)` as the next value of `indicator` (42_fade_blink_engine.md rule R178). -/
def heartbeatFlag (t : Time) (indicator : Bool) : Bool :=
  let h := t % Config.heartbeatPeriod
  if h = 0#32 then true
  else if h = Config.heartbeatOff then false
  else indicator

end Sys2Proof.Machine
end

