-- ==== Sys2Proof/Machine/Ops.lean ====
section
/-! DEFINITION. The operations over registers that the meanings share: register access (spec/10_state.md rule R20), `SNAP`
(40_commands.md), `HEARTBEAT` (42_fade_blink_engine.md rule R178), taking the tick interrupt (41_timer.md rules R151, R152), and the
outputs read off the state. The block has no memory to read or write and no exception (60_exceptions.md rule R223): the tick is its one
interrupt. -/

namespace Sys2Proof.Machine

/-- Read `x[i]` (00_scope.md rule R11). Every register reads as it was last written; none is hard-wired (10_state.md rule R21). -/
def State.get (s : State) : Reg → Word16
  | .cur c => s.cur.get c
  | .tgt c => s.tgt.get c
  | .rate => s.rate
  | .duty => s.duty
  | .period => s.period

/-- Write `x[i]`, whole (00_scope.md rule R11, 20_memory.md rule R65). -/
def State.set (s : State) (r : Reg) (v : Word16) : State :=
  match r with
  | .cur c => { s with cur := s.cur.set c v }
  | .tgt c => { s with tgt := s.tgt.set c v }
  | .rate => { s with rate := v }
  | .duty => { s with duty := v }
  | .period => { s with period := v }

/-- `SNAP()`: "reset all targets to current" (40_commands.md, helpers). -/
def snap (s : State) : State := { s with tgt := s.cur }

/-- `HEARTBEAT(t)` on the state (42_fade_blink_engine.md rule R178). -/
def heartbeat (t : Time) (s : State) : State := { s with indicator := heartbeatFlag t s.indicator }

/-- The tick interrupt, whole: a compare-match pulse (41_timer.md rules R151, R152). Masked, it is dropped and nothing
remembers it; fired, it writes `time` and `updated`. Entry saves nothing and there is no return (60_exceptions.md rules R228, R229). -/
def tickInterrupt (s : State) : State :=
  if s.irqMask then s else { s with time := s.time + 1#32, updated := true }

/-- `cmd_ready`: the sequencer is idle (00_scope.md rule R8). -/
def State.cmdReady (s : State) : Bool := s.seq == .idle

/-- `led_shown`: the last frame sent, `none` while there is none (10_state.md rule R42; log 26). -/
def State.ledShown (s : State) : Option Frame := s.frames.getLast?

end Sys2Proof.Machine
end

