-- ==== Sys2Proof/Machine/Serializer.lean ====
section
/-! DEFINITION. The LED Serializer: its phases (spec/43_led_serializer.md rules R200 to R204), `emit` and `RENDER` (rule R190),
and the nominal durations of the phases (rules R202, R203, R205). -/

namespace Sys2Proof.Machine

/-- S_IDLE to S_SHIFT: the frame is loaded, ticks are masked, and the first slot starts with a rising edge (43_led_serializer.md
rules R200, R201, R204; log 14). -/
def serStart (f : Frame) (s : State) : State :=
  { s with serState := .shift, shreg := f, bitcnt := 23#5, irqMask := true, ledDout := true }

/-- The serializer's present phase ends (43_led_serializer.md rules R200, R202; log 14). A slot is a high phase and a low phase;
after the low phase of the last slot the mask falls and the latch delay begins; after that `RENDER` returns. -/
def serAdvance (s : State) : State :=
  match s.serState with
  | .idle => s
  | .shift =>
    if s.ledDout then { s with ledDout := false }
    else if s.bitcnt = 0#5 then { s with irqMask := false, serState := .latch }
    else { s with shreg := s.shreg <<< 1, bitcnt := s.bitcnt - 1#5, ledDout := true }
  | .latch => { s with serState := .idle, shreg := 0#24 }

/-- `n` phases end, one after another. -/
def serRun : Nat → State → State
  | 0, s => s
  | n + 1, s => serRun n (serAdvance s)

/-- The phases of one frame: two for each of the 24 slots, and the latch. -/
def framePhases : Nat := 49

/-- The working state "restored to [its] idle values on return" (43_led_serializer.md rule R190). -/
def serRest (s : State) : State :=
  { s with serState := .idle, shreg := 0#24, bitcnt := 0#5, irqMask := false, ledDout := false }

/-- `emit(F)`: one more frame on the line (43_led_serializer.md rule R190). In the untimed grain it returns at once with the
serializer at rest, which is where its phases lead (`serRun_frame`, Laws/Serializer.lean); in the phased grain the frame is left
at its start and its phases are steps of their own (log 12). -/
def emit (f : Frame) (s : State) : State :=
  let sent : State := { s with frames := s.frames ++ [f] }
  if s.phased then serStart f sent else serRest sent

/-- `RENDER(r, g, b)` (43_led_serializer.md rule R190). -/
def render (v : Rgb) (s : State) : State := emit (frameOf v) s

/-! ### `RENDER` and its caller (43_led_serializer.md rule R190; log 13) -/

/-- What a caller of `RENDER` does next. -/
def runAfterRender (k : AfterRender) (s : State) : State :=
  match k with
  | .nothing => s
  | .snap => snap s
  | .heartbeat t => heartbeat t s

/-- `RENDER(v)` and what its caller does once it has returned. In the untimed grain it returns within the step and the caller goes
on; in the phased grain the caller is blocked, and what it has still to do is kept until the latch delay is over. -/
def renderThen (v : Rgb) (k : AfterRender) (s : State) : State :=
  if s.phased then { render v s with afterRender := k } else runAfterRender k (render v s)

/-- `RENDER` returns to its caller, which goes on. -/
def renderReturns (s : State) : State := runAfterRender s.afterRender { s with afterRender := .nothing }

/-! ### Durations -/

/-- The nominal length in nanoseconds of the serializer's present phase; for the latch, its lower bound
(43_led_serializer.md rules R202, R203; log 15). -/
def phaseNs (s : State) : Nat :=
  match s.serState with
  | .idle => 0
  | .shift =>
    let high := if s.shreg.getMsbD 0 then Config.t1hNs else Config.t0hNs
    if s.ledDout then high else Config.slotNs - high
  | .latch => Config.latchMinNs

/-- The level of the line and the nominal length of each of the next `n` phases, first to last. -/
def waveform : Nat → State → List (Bool × Nat)
  | 0, _ => []
  | n + 1, s => (s.ledDout, phaseNs s) :: waveform n (serAdvance s)

end Sys2Proof.Machine
end

