-- ==== Sys2Proof/Machine/Blink.lean ====
section
/-! DEFINITION. Opcode 10: SET_BLINK (spec/40_commands.md rule R131). -/

namespace Sys2Proof.Machine

/-- `SET_BLINK value, index`: duty and period are stored unchecked (log 19), and `index = 0` renders (40_commands.md rule R131). -/
def execSetBlink (value index : Word16) (s : State) : Host.Outcome State Fault Refusal :=
  let stored := (s.set .duty value).set .period index
  .next (if index = 0#16 then renderThen stored.cur .nothing stored else stored)

end Sys2Proof.Machine
end

