-- ==== Sys2Proof/Machine/Colour.lean ====
section
/-! DEFINITION. Opcodes 3 to 5: SET_RED, SET_GREEN, SET_BLUE (spec/40_commands.md rules R124 to R126). -/

namespace Sys2Proof.Machine

/-- Set one channel of the current colour and snap all three targets (40_commands.md rule R124). -/
def setChannel (c : Chan) (value : Word16) (s : State) : State := snap (s.set (.cur c) value)

/-- `SET_RED value` (40_commands.md rule R124). -/
def execSetRed (value : Word16) (s : State) : Host.Outcome State Fault Refusal := .next (setChannel .red value s)

/-- `SET_GREEN value` (40_commands.md rule R125). -/
def execSetGreen (value : Word16) (s : State) : Host.Outcome State Fault Refusal := .next (setChannel .green value s)

/-- `SET_BLUE value` (40_commands.md rule R126). -/
def execSetBlue (value : Word16) (s : State) : Host.Outcome State Fault Refusal := .next (setChannel .blue value s)

end Sys2Proof.Machine
end

