-- ==== Sys2Proof/Machine/Control.lean ====
section
/-! DEFINITION. Opcodes 0 to 2: RESET, COMMIT, SET_STATUS (spec/40_commands.md rules R121 to R123). -/

namespace Sys2Proof.Machine

/-- `COMMIT_BODY()` (40_commands.md, helpers): indicator, render, snap, in this order. -/
def commitBody (s : State) : State := renderThen s.cur .snap { s with indicator := s.status }

/-- What RESET clears before it goes on as COMMIT (40_commands.md rule R121). -/
def clearColours (s : State) : State := { s with cur := Rgb.black, tgt := Rgb.black, status := false }

/-- `RESET` (40_commands.md rule R121). -/
def execReset (s : State) : Host.Outcome State Fault Refusal := .next (commitBody (clearColours s))

/-- `COMMIT` (40_commands.md rule R122). -/
def execCommit (s : State) : Host.Outcome State Fault Refusal := .next (commitBody s)

/-- `SET_STATUS value` (40_commands.md rule R123). -/
def execSetStatus (value : Word16) (s : State) : Host.Outcome State Fault Refusal :=
  .next { s with status := statusFlag value }

end Sys2Proof.Machine
end

