-- ==== Sys2Proof/Machine/Fade.lean ====
section
/-! DEFINITION. Opcodes 6 to 9: FADE_RED, FADE_GREEN, FADE_BLUE, SET_FADE_RATE (spec/40_commands.md rules R127 to R130). -/

namespace Sys2Proof.Machine

/-- `FADE_RED value` (40_commands.md rule R127). -/
def execFadeRed (value : Word16) (s : State) : Host.Outcome State Fault Refusal := .next (s.set (.tgt .red) value)

/-- `FADE_GREEN value` (40_commands.md rule R128). -/
def execFadeGreen (value : Word16) (s : State) : Host.Outcome State Fault Refusal := .next (s.set (.tgt .green) value)

/-- `FADE_BLUE value` (40_commands.md rule R129). -/
def execFadeBlue (value : Word16) (s : State) : Host.Outcome State Fault Refusal := .next (s.set (.tgt .blue) value)

/-- `SET_FADE_RATE value`: zero is not stored, it snaps the targets (40_commands.md rule R130). -/
def execSetFadeRate (value : Word16) (s : State) : Host.Outcome State Fault Refusal :=
  .next (if value = 0#16 then snap s else s.set .rate value)

end Sys2Proof.Machine
end

