-- ==== Sys2Proof/Machine/Dispatch.lean ====
section
/-! DEFINITION. One arm per command (spec/30_encoding.md rule R101). -/

namespace Sys2Proof.Machine

def exec (i : Instr) (s : State) : Host.Outcome State Fault Refusal :=
  match i with
  | .reset => Sys2Proof.Machine.execReset s
  | .commit => Sys2Proof.Machine.execCommit s
  | .setStatus value => Sys2Proof.Machine.execSetStatus value s
  | .setRed value => Sys2Proof.Machine.execSetRed value s
  | .setGreen value => Sys2Proof.Machine.execSetGreen value s
  | .setBlue value => Sys2Proof.Machine.execSetBlue value s
  | .fadeRed value => Sys2Proof.Machine.execFadeRed value s
  | .fadeGreen value => Sys2Proof.Machine.execFadeGreen value s
  | .fadeBlue value => Sys2Proof.Machine.execFadeBlue value s
  | .setFadeRate value => Sys2Proof.Machine.execSetFadeRate value s
  | .setBlink value index => Sys2Proof.Machine.execSetBlink value index s

end Sys2Proof.Machine
end

