-- ==== Sys2Proof/Machine/Engine.lean ====
section
/-! DEFINITION. The Fade/Blink Engine (spec/42_fade_blink_engine.md rules R171 to R179). -/

namespace Sys2Proof.Machine

/-- `min(a, b)`, unsigned (00_scope.md rule R10). -/
def minWord (a b : Word16) : Word16 := if a ≤ b then a else b

/-- One channel of `FADE_STEP()`: toward the target by at most `rate`, never past it (42_fade_blink_engine.md rules R171, R172). -/
def fadeChannel (rate cur tgt : Word16) : Word16 :=
  if cur = tgt then cur
  else if cur < tgt then cur + minWord (tgt - cur) rate
  else cur - minWord (cur - tgt) rate

/-- All three channels, each on its own (42_fade_blink_engine.md rule R171). -/
def fadeRgb (rate : Word16) (cur tgt : Rgb) : Rgb :=
  { red := fadeChannel rate cur.red tgt.red
    green := fadeChannel rate cur.green tgt.green
    blue := fadeChannel rate cur.blue tgt.blue }

/-- `FADE_STEP()` on the state (42_fade_blink_engine.md rule R171); `changed` is `changedFlag` of the state before. -/
def fadeStep (s : State) : State := { s with cur := fadeRgb s.rate s.cur s.tgt }

/-- The render decision (42_fade_blink_engine.md rule R177): nothing, black, or the colour after the fade step; then `k`, after the
`RENDER` has returned where there is one. -/
def engineRender (changed : Bool) (o : Overlay) (k : AfterRender) (s : State) : State :=
  if changed || o.refresh then
    (if o.black then renderThen Rgb.black k s else renderThen s.cur k s)
  else runAfterRender k s

/-- `ENGINE(t)`: fade, overlay, render, heartbeat, in this order (42_fade_blink_engine.md rule R179; log 17). -/
def engine (t : Time) (s : State) : State :=
  engineRender (changedFlag s.cur s.tgt) (blinkOverlay s.duty s.period t) (.heartbeat t) (fadeStep s)

end Sys2Proof.Machine
end

