-- ==== Sys2Proof/Machine/Timer.lean ====
section
/-! DEFINITION. The timer's atomic read-and-clear (spec/41_timer.md rules R153, R154). The tick itself is `tickInterrupt`
(Machine/Ops.lean). -/

namespace Sys2Proof.Machine

/-- The pair `READ_AND_CLEAR()` returns (41_timer.md rule R153). -/
structure Snapshot where
  time : Time
  updated : Bool
deriving DecidableEq, Repr

/-- `READ_AND_CLEAR()`, one atomic step (41_timer.md rule R153). -/
def readAndClear (s : State) : Snapshot × State :=
  ({ time := s.time, updated := s.updated }, { s with updated := false })

/-- `READ_AND_CLEAR()` with a compare-match in the same cycle: the read-and-clear comes first and the tick is not lost
(41_timer.md rule R154; log 11). -/
def readAndClearTick (s : State) : Snapshot × State :=
  ((readAndClear s).1, tickInterrupt (readAndClear s).2)

end Sys2Proof.Machine
end

