-- ==== Sys2Proof/Machine/Sequencer.lean ====
section
/-! DEFINITION. The sequencer: the command transaction (spec/40_commands.md rule R120), the poll transaction
(42_fade_blink_engine.md rule R170), and what the next step does with the environment's next input (20_memory.md rules R68 to
R71, R78; log 1). -/

namespace Sys2Proof.Machine

/-- The sequencer is idle again; a command transaction writes `resp_len` and pulses `cmd_done` (40_commands.md rule R134; log 22). -/
def closeTransaction (s : State) : State :=
  match s.seq with
  | .idle => s
  | .poll => { s with seq := .idle }
  | .cmd => { s with seq := .idle, respLen := 0#8, responses := s.responses ++ [0#8] }

/-- A transaction is over once the serializer is idle and its caller has done what follows the `RENDER`
(43_led_serializer.md rule R190). -/
def endTransaction (s : State) : State :=
  match s.serState with
  | .idle => closeTransaction (renderReturns s)
  | .shift => s
  | .latch => s

/-- `CMD(pkt)` (40_commands.md rule R120) with the integrity function as an argument (30_encoding.md rule R98): a dropped packet and an
unrecognised opcode do nothing (60_exceptions.md rule R220, 40_commands.md rule R132), and the response is 0 in every case. -/
def runCommandWith (integrity : List Byte → Word16) (bytes : List Byte) (s : State) : Host.Outcome State Fault Refusal :=
  match decodeWith integrity bytes with
  | .wrongLength n => .refused (.packetLength n)
  | .dropped => .next (endTransaction { s with seq := .cmd })
  | .unrecognized _ => .next (endTransaction { s with seq := .cmd })
  | .command i =>
    match exec i { s with seq := .cmd } with
    | .next t => .next (endTransaction t)
    | .fault f => .fault f
    | .refused r => .refused r

/-- The rest of a `POLL` after its READ_AND_CLEAR: the engine runs on the snapshot's `time` if the snapshot's flag is set
(42_fade_blink_engine.md rule R170, 20_memory.md rule R79; log 17). -/
def afterSnapshot (p : Snapshot × State) : State :=
  endTransaction (if p.1.updated then engine p.1.time p.2 else p.2)

/-- `POLL` (42_fade_blink_engine.md rule R170). -/
def runPoll (s : State) : State := afterSnapshot (readAndClear { s with seq := .poll })

/-- `POLL` with a compare-match in the cycle of its READ_AND_CLEAR (41_timer.md rule R154). -/
def runPollTick (s : State) : State := afterSnapshot (readAndClearTick { s with seq := .poll })

/-- The serializer's present phase ends; a transaction that waited for it may end with it (43_led_serializer.md rule R200). -/
def advancePhase (s : State) : State := endTransaction (serAdvance s)

/-- Power-on reset: every state element at its reset value (70_reset_and_hazards.md rule R250). What the environment will do next
and the grain are not the block's and stay (log 21). -/
def powerOn (s : State) : State := { State.reset with inputs := s.inputs, phased := s.phased }

/-- The next step of a block with the given integrity function (30_encoding.md rule R98). The input at the head says which agent
moves; with none left the sequencer polls, as it does "again and again for as long as it is idle" (20_memory.md rule R70). While a
transaction is under way its serializer goes on, and the packet or poll that is next waits (20_memory.md rule R78; log 27). -/
def stepWith (integrity : List Byte → Word16) (s : State) : Host.Outcome State Fault Refusal :=
  match s.inputs with
  | [] => .next (if s.cmdReady then runPoll s else advancePhase s)
  | .tickEv :: rest => .next (tickInterrupt { s with inputs := rest })
  | .phaseEnd :: rest => .next (advancePhase { s with inputs := rest })
  | .busReset :: rest => .next { s with inputs := rest }
  | .powerOn :: rest => .next (powerOn { s with inputs := rest })
  | .packet bytes :: rest =>
    if s.cmdReady then runCommandWith integrity bytes { s with inputs := rest } else .next (advancePhase s)
  | .poll :: rest => .next (if s.cmdReady then runPoll { s with inputs := rest } else advancePhase s)
  | .pollTick :: rest => .next (if s.cmdReady then runPollTick { s with inputs := rest } else advancePhase s)

end Sys2Proof.Machine
end

