-- ==== Sys2Proof/Machine/Step.lean ====
section
/-! DEFINITION. The step function and the way a table word is given to it. -/

namespace Sys2Proof.Machine

/-- One step of the machine (spec/20_memory.md rule R69): its integrity function is CRC-16/USB (30_encoding.md rule R98; log 3). -/
def step (s : State) : Host.Outcome State Fault Refusal := stepWith integrity16 s

/-- The state with the packet of a table word presented next, and the sequencer ready to take it (logs 24 and 25). -/
def State.withFetchWord (s : State) (nbits w : Nat) : State :=
  { s with inputs := .packet (tablePacket nbits w) :: s.inputs, seq := .idle }

end Sys2Proof.Machine
end

