-- ==== Sys2Proof/Safety.lean ====
section
/-! DEFINITION. The terms statements are made in: the invariant of the machine, what a transaction's frame leaves in the
serializer, and runs of the serializer and the timer with compare-match pulses between their steps. -/

namespace Sys2Proof.Machine

/-! ## The invariant -/

/-- What holds between any two steps. `rate > 0` (spec/10_state.md rule R24); ticks are masked exactly in S_SHIFT
(43_led_serializer.md rule R201); the line is high in S_SHIFT only (10_state.md rule R38); `bitcnt` is 0 to 23 and 0 outside S_SHIFT,
`shreg` is 0 in S_IDLE (10_state.md rule R31); a transaction is open exactly while the serializer is not idle (rule R31,
20_memory.md rule R78); in the untimed grain none is open; what follows a `RENDER` waits only while the serializer works, `SNAP` in a
command and `HEARTBEAT` in a poll (43_led_serializer.md rule R190); every response length is 0 (40_commands.md rule R134). -/
structure State.Inv (s : State) : Prop where
  rate_pos : s.rate ≠ 0#16
  masked_in_shift : s.irqMask = (s.serState == .shift)
  high_in_shift : s.ledDout = true → s.serState = .shift
  bitcnt_range : s.bitcnt ≤ 23#5
  bitcnt_rest : s.serState ≠ .shift → s.bitcnt = 0#5
  shreg_rest : s.serState = .idle → s.shreg = 0#24
  open_iff : s.seq = .idle ↔ s.serState = .idle
  untimed_closed : s.phased = false → s.seq = .idle
  waits_in_render : s.serState = .idle → s.afterRender = .nothing
  snap_in_command : s.afterRender = .snap → s.seq = .cmd
  heartbeat_in_poll : ∀ τ, s.afterRender = .heartbeat τ → s.seq = .poll
  resp_zero : s.respLen = 0#8
  responses_zero : ∀ r ∈ s.responses, r = 0#8

/-- The serializer at rest: every working register at its idle value (43_led_serializer.md rule R190). -/
structure State.SerIdle (s : State) : Prop where
  serState : s.serState = .idle
  shreg : s.shreg = 0#24
  bitcnt : s.bitcnt = 0#5
  irqMask : s.irqMask = false
  ledDout : s.ledDout = false

/-- The serializer at the start of a frame (43_led_serializer.md rule R200). -/
structure State.SerStarted (f : Frame) (s : State) : Prop where
  serState : s.serState = .shift
  shreg : s.shreg = f
  bitcnt : s.bitcnt = 23#5
  irqMask : s.irqMask = true
  ledDout : s.ledDout = true

/-- Exactly one frame `f` went out between `s` and `t`: the trace grew by it, and the serializer is back at rest, or, in the
phased grain, at the frame's start (43_led_serializer.md rules R190, R200). -/
def Sent (f : Frame) (s t : State) : Prop :=
  t.frames = s.frames ++ [f] ∧ (s.phased = false → t.SerIdle) ∧ (s.phased = true → t.SerStarted f)

/-- Where `k`, which follows a `RENDER` of the step from `s` to `t`, stands in `t`: still to come in the phased grain, over in the
untimed one (43_led_serializer.md rule R190; log 13). -/
def Awaits (k : AfterRender) (s t : State) : Prop := t.afterRender = if s.phased then k else s.afterRender

/-- The serializer and its trace are as they were: no frame went out and no `RENDER` is waited for anew. -/
structure NothingSent (s t : State) : Prop where
  frames : t.frames = s.frames
  serState : t.serState = s.serState
  shreg : t.shreg = s.shreg
  bitcnt : t.bitcnt = s.bitcnt
  irqMask : t.irqMask = s.irqMask
  ledDout : t.ledDout = s.ledDout
  afterRender : t.afterRender = s.afterRender

/-- Everything no command writes (41_timer.md rule R158, 40_commands.md rule R134: the response is the transaction's, not the
opcode's): the timer's pair, the sequencer, the port's answers, and the model's own fields. -/
structure OutsideKept (s t : State) : Prop where
  time : t.time = s.time
  updated : t.updated = s.updated
  seq : t.seq = s.seq
  respLen : t.respLen = s.respLen
  responses : t.responses = s.responses
  inputs : t.inputs = s.inputs
  phased : t.phased = s.phased

/-- The frame `f` went out between `s` and `t` if `b`, and nothing if not. -/
def SentIf (b : Bool) (f : Frame) (s t : State) : Prop := if b then Sent f s t else NothingSent s t

/-! ## Which command, and which step, writes and renders what -/

/-- The "written by command" column of the writer table (10_state.md rule R22). -/
def writesReg : Instr → Reg → Bool
  | .reset, .cur _ => true
  | .reset, .tgt _ => true
  | .commit, .tgt _ => true
  | .setRed _, .cur .red => true
  | .setRed _, .tgt _ => true
  | .setGreen _, .cur .green => true
  | .setGreen _, .tgt _ => true
  | .setBlue _, .cur .blue => true
  | .setBlue _, .tgt _ => true
  | .fadeRed _, .tgt .red => true
  | .fadeGreen _, .tgt .green => true
  | .fadeBlue _, .tgt .blue => true
  | .setFadeRate v, .tgt _ => v == 0#16
  | .setFadeRate v, .rate => v != 0#16
  | .setBlink _ _, .duty => true
  | .setBlink _ _, .period => true
  | _, _ => false

/-- The three cases that invoke the serializer from a command (40_commands.md rule R135). -/
def rendersFrame : Instr → Bool
  | .reset => true
  | .commit => true
  | .setBlink _ index => index == 0#16
  | _ => false

/-- The commands after which `tgt = cur` (40_commands.md rule R137). -/
def snapsTargets : Instr → Bool
  | .reset => true
  | .commit => true
  | .setRed _ => true
  | .setGreen _ => true
  | .setBlue _ => true
  | .setFadeRate v => v == 0#16
  | _ => false

/-- The commands that may change `cur` (40_commands.md rule R137). -/
def setsCurrent : Instr → Bool
  | .reset => true
  | .setRed _ => true
  | .setGreen _ => true
  | .setBlue _ => true
  | _ => false

/-- The commands that write `status` (10_state.md rule R32). -/
def writesStatus : Instr → Bool
  | .reset => true
  | .setStatus _ => true
  | _ => false

/-- The commands that write `indicator` (10_state.md rule R36; `RESET` by its `COMMIT_BODY()`, 40_commands.md rule R121). -/
def writesIndicator : Instr → Bool
  | .reset => true
  | .commit => true
  | _ => false

/-- The next step is a power-on reset. -/
def ResetsNext (s : State) : Prop := ∃ rest, s.inputs = .powerOn :: rest

/-- The next step takes a packet that decodes to `i`. -/
def RunsNext (i : Instr) (s : State) : Prop :=
  s.seq = .idle ∧ ∃ bytes rest, s.inputs = .packet bytes :: rest ∧ decode bytes = .command i

/-- The next step is a poll: one is next, or nothing is and the idle sequencer polls (20_memory.md rule R70; log 1). -/
def PollsNext (s : State) : Prop :=
  s.seq = .idle ∧ (s.inputs = [] ∨ (∃ rest, s.inputs = .poll :: rest) ∨ ∃ rest, s.inputs = .pollTick :: rest)

/-- The next step takes a compare-match (10_state.md rules R33, R35): one that is not masked, or one in the cycle of a poll's
READ_AND_CLEAR (41_timer.md rule R154). -/
def TicksNext (s : State) : Prop :=
  s.irqMask = false ∧
    ((∃ rest, s.inputs = .tickEv :: rest) ∨ (s.seq = .idle ∧ ∃ rest, s.inputs = .pollTick :: rest))

/-! ## The serializer with pulses between its phases -/

/-- What can happen while a frame is under way. -/
inductive CycleEvent where
  /-- The serializer's present phase ends. -/
  | phaseEnd
  /-- A compare-match pulse. -/
  | tickEv
deriving DecidableEq, Repr

/-- A run of the serializer and the timer, oldest event first. -/
def cycleRun : List CycleEvent → State → State
  | [], s => s
  | .phaseEnd :: es, s => cycleRun es (serAdvance s)
  | .tickEv :: es, s => cycleRun es (tickInterrupt s)

/-- How many of the pulses come after `k` more phases have ended. -/
def pulsesAfter : Nat → List CycleEvent → Nat
  | _, [] => 0
  | k, .phaseEnd :: es => pulsesAfter (k - 1) es
  | 0, .tickEv :: es => pulsesAfter 0 es + 1
  | k + 1, .tickEv :: es => pulsesAfter (k + 1) es

/-- `n` ticks, one after another. -/
def ticks : Nat → State → State
  | 0, s => s
  | n + 1, s => ticks n (tickInterrupt s)

/-! ## The timer with reads between its ticks -/

/-- A step of the timer. -/
inductive TimerOp where
  | tick
  | readAndClear
deriving DecidableEq, Repr

/-- The snapshots a run of the timer returns, oldest first (41_timer.md rule R153). -/
def snapshots : List TimerOp → State → List Snapshot
  | [], _ => []
  | .tick :: os, s => snapshots os (tickInterrupt s)
  | .readAndClear :: os, s => (readAndClear s).1 :: snapshots os (readAndClear s).2

/-! ## Runs -/

/-- The inputs of `n` ticks, each followed by a poll. -/
def tickPolls : Nat → List Input
  | 0 => []
  | n + 1 => .tickEv :: .poll :: tickPolls n

/-- `n` steps of a block with the given integrity function, stopping where one is refused (30_encoding.md rule R98). -/
def runStepsWith (integrity : List Byte → Word16) : Nat → State → Host.Outcome State Fault Refusal
  | 0, s => .next s
  | n + 1, s =>
    match stepWith integrity s with
    | .next t => runStepsWith integrity n t
    | .fault f => .fault f
    | .refused r => .refused r

/-- `n` steps of the machine: `Host.Core.run` of it (`runSteps_eq_run`, Laws/Sequencer.lean). -/
abbrev runSteps : Nat → State → Host.Outcome State Fault Refusal := runStepsWith integrity16

end Sys2Proof.Machine
end

