-- ==== Sys2Proof/Certificates/Slice0/Obligations.lean ====
section
/-! DEFINITION. The statements for the provers, from the numbered rules of spec/. -/

open Sys2Proof Sys2Proof.Machine

/-! ## Packets, decode, encode -/

/-- 95_test_vectors.md section 2.1, vectors E1, E4 to E7, E9, E10 (packet layout and integrity function: logs 3 and 4). -/
def Obligations.SpecPacketsDecodeAsListed : Prop :=
  decode [0x40#8, 0x00#8, 0x00#8, 0x00#8, 0x00#8, 0x00#8, 0x00#8, 0x00#8, 0xbb#8, 0xc4#8] = .command .reset ∧
  decode [0x40#8, 0x03#8, 0xff#8, 0xff#8, 0x00#8, 0x00#8, 0x00#8, 0x00#8, 0x88#8, 0xdf#8] =
    .command (.setRed 65535#16) ∧
  decode [0x40#8, 0x06#8, 0xe8#8, 0x03#8, 0x00#8, 0x00#8, 0x00#8, 0x00#8, 0x8e#8, 0xec#8] =
    .command (.fadeRed 1000#16) ∧
  decode [0x40#8, 0x0a#8, 0x1e#8, 0x00#8, 0x64#8, 0x00#8, 0x00#8, 0x00#8, 0x0d#8, 0x4a#8] =
    .command (.setBlink 30#16 100#16) ∧
  decode [0x40#8, 0x0b#8, 0x05#8, 0x00#8, 0x05#8, 0x00#8, 0x00#8, 0x00#8, 0x01#8, 0x9d#8] = .unrecognized 11#8 ∧
  decode [0x40#8, 0x06#8, 0xe9#8, 0x03#8, 0x00#8, 0x00#8, 0x00#8, 0x00#8, 0x8e#8, 0xec#8] = .dropped ∧
  decode [0x40#8, 0x00#8, 0x00#8, 0x00#8, 0x00#8, 0x00#8, 0x00#8, 0x00#8, 0xbb#8, 0x44#8] = .dropped

/-- 30_encoding.md rule R100, for every integrity function (rule R98): the gate first, then the opcode byte `b[1]`; a command's
operands are `{b[3], b[2]}` and `{b[5], b[4]}`. The byte positions and the byte order are the spec's decisions D6 and D10 (log 4), the
whole-byte opcode its decision D9 (log 6). -/
def Obligations.DecodeGatesThenDispatches : Prop :=
  ∀ (integrity : List Byte → Word16) (b0 b1 b2 b3 b4 b5 b6 b7 b8 b9 : Byte),
    let pkt := [b0, b1, b2, b3, b4, b5, b6, b7, b8, b9]
    (integrity pkt ≠ 0x4FFE#16 → decodeWith integrity pkt = .dropped) ∧
    (integrity pkt = 0x4FFE#16 → b1 ≤ 10#8 →
      ∃ i : Instr, decodeWith integrity pkt = .command i ∧ i.opcode = b1 ∧
        (∀ v, i.valueOperand = some v → v.toNat = b2.toNat + 256 * b3.toNat) ∧
        (∀ n, i.indexOperand = some n → n.toNat = b4.toNat + 256 * b5.toNat)) ∧
    (integrity pkt = 0x4FFE#16 → 10#8 < b1 → decodeWith integrity pkt = .unrecognized b1)

/-- Decode of encode, for every command with every operand and every content of the ignored fields (30_encoding.md rules R95, R98,
R103). CRC-16/USB, the packet's layout and the ignored fields are the spec's decisions D7, D6, D10 and D8 (logs 3, 4, 5). -/
def Obligations.DecodeOfEncodeGivesTheCommand : Prop :=
  ∀ (spare : Spare) (i : Instr), decode (encodeWith spare i) = .command i

/-- Encode of decode: a packet that decodes to a command is that command's packet for some content of the ignored fields. CRC-16/USB,
the packet's layout and the ignored fields are the spec's decisions D7, D6, D10 and D8 (logs 3, 4, 5). -/
def Obligations.CommandPacketsAreEncodings : Prop :=
  ∀ (bytes : List Byte) (i : Instr), decode bytes = .command i → ∃ spare : Spare, bytes = encodeWith spare i

/-- 30_encoding.md rule R98, last part (the spec's decision D7, log 3): exactly one trailer passes the gate. -/
def Obligations.ExactlyTheComputedTrailerPasses : Prop :=
  ∀ (setup : List Byte) (lo hi : Byte), setup.length = 8 →
    (integrityOk (setup ++ [lo, hi]) = true ↔ setup ++ [lo, hi] = appendTrailer setup)

/-! ## The command transaction -/

/-- A step runs the decoded command: 40_commands.md rule R120, and around it the opening and the end of the transaction; the same for
every integrity function (30_encoding.md rule R98), of which the machine's is CRC-16/USB (log 3). -/
def Obligations.StepRunsTheDecodedCommand : Prop :=
  (∀ (s : State) (bytes : List Byte) (rest : List Input) (i : Instr),
    s.inputs = .packet bytes :: rest → s.seq = .idle →
    (decode bytes = .command i →
      ∃ t, exec i { s with inputs := rest, seq := .cmd } = .next t ∧ step s = .next (endTransaction t)) ∧
    (∀ integrity : List Byte → Word16, decodeWith integrity bytes = .command i →
      ∃ t, exec i { s with inputs := rest, seq := .cmd } = .next t ∧
        stepWith integrity s = .next (endTransaction t))) ∧
  (∀ s : State, step s = stepWith integrity16 s)

/-- The state with a table word's packet presented next runs exactly the command the decoder reads from it (30_encoding.md rule R99;
logs 24 and 25). -/
def Obligations.TableWordRunsNext : Prop :=
  ∀ (s : State) (nbits w : Nat) (i : Instr), decodeTableWord nbits w = some i →
    ∃ t, exec i { s with seq := .cmd } = .next t ∧ step (s.withFetchWord nbits w) = .next (endTransaction t)

/-- 60_exceptions.md rule R220: a packet that fails the gate changes nothing but the answer, for every integrity function
(30_encoding.md rule R98; `responses` is the model's record of `cmd_done`, log 22). The premises on `serState` and `afterRender` are
part of the invariant. -/
def Obligations.DroppedPacketChangesNothing : Prop :=
  ∀ (s : State) (bytes : List Byte) (rest : List Input),
    s.inputs = .packet bytes :: rest → s.seq = .idle → s.serState = .idle → s.afterRender = .nothing →
    bytes.length = 10 →
    (integrityOk bytes = false →
      step s = .next { s with inputs := rest, respLen := 0#8, responses := s.responses ++ [0#8] }) ∧
    (∀ integrity : List Byte → Word16, integrityOkWith integrity bytes = false →
      stepWith integrity s = .next { s with inputs := rest, respLen := 0#8, responses := s.responses ++ [0#8] })

/-- 40_commands.md rule R132, 30_encoding.md rule R102: opcodes 11 to 255 do nothing and answer 0, for every integrity function (rule
R98). That the opcode is a whole byte is the spec's decision D9 (log 6), that it is `b[1]` its decision D6 (log 4); `responses` is the
model's record (log 22). -/
def Obligations.UnrecognisedOpcodeChangesNothing : Prop :=
  ∀ (s : State) (b0 b1 b2 b3 b4 b5 b6 b7 b8 b9 : Byte) (rest : List Input),
    let pkt := [b0, b1, b2, b3, b4, b5, b6, b7, b8, b9]
    s.inputs = .packet pkt :: rest → s.seq = .idle → s.serState = .idle → s.afterRender = .nothing → 11 ≤ b1.toNat →
    (integrityOk pkt = true →
      step s = .next { s with inputs := rest, respLen := 0#8, responses := s.responses ++ [0#8] }) ∧
    (∀ integrity : List Byte → Word16, integrityOkWith integrity pkt = true →
      stepWith integrity s = .next { s with inputs := rest, respLen := 0#8, responses := s.responses ++ [0#8] })

/-- 40_commands.md rule R134, 60_exceptions.md rule R223: the command port cannot tell one packet from another, whatever the integrity
function (`responses`: log 22). -/
def Obligations.PortAnswersEveryPacketAlike : Prop :=
  ∀ (s : State) (p q : List Byte) (rest : List Input),
    s.seq = .idle → s.serState = .idle → s.phased = false → p.length = 10 → q.length = 10 →
    let alike := fun run : State → Host.Outcome State Fault Refusal =>
      ∃ t u, run { s with inputs := .packet p :: rest } = .next t ∧
        run { s with inputs := .packet q :: rest } = .next u ∧
        t.respLen = 0#8 ∧ u.respLen = 0#8 ∧
        t.responses = s.responses ++ [0#8] ∧ u.responses = t.responses ∧
        t.cmdReady = true ∧ u.cmdReady = true
    alike step ∧ ∀ integrity : List Byte → Word16, alike (stepWith integrity)

/-- 20_memory.md rule R62 (the spec's decision D28, log 7): a packet that has not 10 bytes is refused, by name. -/
def Obligations.WrongLengthPacketIsRefused : Prop :=
  ∀ (s : State) (bytes : List Byte) (rest : List Input),
    s.inputs = .packet bytes :: rest → s.seq = .idle → bytes.length ≠ 10 →
    step s = .refused (.packetLength bytes.length)

/-- 20_memory.md rule R78 (the spec's decision D25, log 27): a packet presented while a transaction is under way waits. While its
slots are sent nothing a command writes changes; once its `RENDER` returns, only what the transaction itself still has to do (log 13).
The phases are logs 12 and 14. -/
def Obligations.PacketWaitsWhileBusy : Prop :=
  ∀ (s : State) (bytes : List Byte) (rest : List Input),
    s.inputs = .packet bytes :: rest → s.seq ≠ .idle →
    ∃ t, step s = .next t ∧ t.inputs = s.inputs ∧ t.frames = s.frames ∧
      t.status = s.status ∧ t.time = s.time ∧ t.updated = s.updated ∧
      (s.serState = .shift → (∀ r, t.get r = s.get r) ∧ t.indicator = s.indicator ∧ t.seq = s.seq) ∧
      (s.serState ≠ .shift →
        (∀ r, t.get r = (renderReturns s).get r) ∧ t.indicator = (renderReturns s).indicator)

/-! ## The commands -/

/-- 40_commands.md rule R121: `RESET`. In the phased grain, that `Sent` finds the frame recorded and the serializer at its start is
the model's choice (logs 12, 14, 29). -/
def Obligations.ResetClearsColoursAndSendsBlack : Prop :=
  ∀ s : State, ∃ t, exec .reset s = .next t ∧
    t.cur = Rgb.black ∧ t.tgt = Rgb.black ∧ t.status = false ∧ t.indicator = false ∧
    Sent 0x000000#24 s t ∧
    t.rate = s.rate ∧ t.duty = s.duty ∧ t.period = s.period ∧ OutsideKept s t

/-- 40_commands.md rule R122: `COMMIT`, in the untimed grain. (How it is stepped phase by phase: `CommandsRenderInExactlyThreeCases`
at the frame's start, `PhasedTransactionEndsAsTheAtomicOne` at its end.) -/
def Obligations.CommitShowsStatusAndColourAndSnaps : Prop :=
  ∀ s : State, s.phased = false → ∃ t, exec .commit s = .next t ∧
    t.indicator = s.status ∧ t.tgt = s.cur ∧ Sent (frameOf s.cur) s t ∧
    t.cur = s.cur ∧ t.status = s.status ∧ t.afterRender = s.afterRender ∧
    t.rate = s.rate ∧ t.duty = s.duty ∧ t.period = s.period ∧ OutsideKept s t

/-- 40_commands.md rule R122, "Commit idempotence": a second `COMMIT` sends the same frame again and changes nothing else. In the
phased grain each frame is recorded at its start (logs 12, 14, 29). -/
def Obligations.CommitTwiceSendsTheSameFrame : Prop :=
  ∀ s t : State, exec .commit s = .next t →
    ∃ u, exec .commit t = .next u ∧ u.frames = t.frames ++ [frameOf s.cur] ∧ u = { t with frames := u.frames }

/-- 40_commands.md rule R123: `SET_STATUS`. -/
def Obligations.SetStatusStoresNonZero : Prop :=
  ∀ (s : State) (value : Word16),
    exec (.setStatus value) s = .next { s with status := decide (value ≠ 0#16) }

/-- 40_commands.md rules R124, R125, R126: `SET_RED`, `SET_GREEN`, `SET_BLUE`. -/
def Obligations.SetColourWritesCurrentAndSnapsAll : Prop :=
  ∀ (s : State) (value : Word16),
    exec (.setRed value) s =
      .next { s with cur := { s.cur with red := value }, tgt := { s.cur with red := value } } ∧
    exec (.setGreen value) s =
      .next { s with cur := { s.cur with green := value }, tgt := { s.cur with green := value } } ∧
    exec (.setBlue value) s =
      .next { s with cur := { s.cur with blue := value }, tgt := { s.cur with blue := value } }

/-- 40_commands.md rules R127, R128, R129: `FADE_RED`, `FADE_GREEN`, `FADE_BLUE`. -/
def Obligations.FadeWritesOneTarget : Prop :=
  ∀ (s : State) (value : Word16),
    exec (.fadeRed value) s = .next { s with tgt := { s.tgt with red := value } } ∧
    exec (.fadeGreen value) s = .next { s with tgt := { s.tgt with green := value } } ∧
    exec (.fadeBlue value) s = .next { s with tgt := { s.tgt with blue := value } }

/-- 40_commands.md rule R130: `SET_FADE_RATE`. -/
def Obligations.SetFadeRateStoresOrSnaps : Prop :=
  ∀ (s : State) (value : Word16),
    (value ≠ 0#16 → exec (.setFadeRate value) s = .next { s with rate := value }) ∧
    (value = 0#16 → exec (.setFadeRate value) s = .next { s with tgt := s.cur })

/-- 40_commands.md rule R131: `SET_BLINK`, unchecked and unclamped (the spec's decision D22, log 19). In the phased grain, that `Sent`
finds the frame recorded and the serializer at its start is the model's choice (logs 12, 14, 29). -/
def Obligations.SetBlinkStoresAndRendersAtZero : Prop :=
  ∀ (s : State) (value index : Word16), ∃ t, exec (.setBlink value index) s = .next t ∧
    t.duty = value ∧ t.period = index ∧ SentIf (index == 0#16) (frameOf s.cur) s t ∧
    t.cur = s.cur ∧ t.tgt = s.tgt ∧ t.rate = s.rate ∧
    t.status = s.status ∧ t.indicator = s.indicator ∧ OutsideKept s t

/-- 10_state.md rule R22, the writer table: a command, an engine pass or a tick changes only the registers listed for it; and, over
whole steps, a register changes only in a power-on reset, in a step that runs a command listed for it, in a poll that finds `updated`
set (`cur` alone), or, stepped phase by phase, where the `RENDER` of a snapping command returns (`tgt` alone; log 13). The same for
`status` (R32), `indicator` (R36), `time` (R35) and `updated` (R33). The packet layout, CRC-16/USB, the list of inputs and the phases
are logs 4, 3, 1 and 12. -/
def Obligations.RegistersChangeOnlyByTheirWriters : Prop :=
  (∀ (i : Instr) (s t : State) (r : Reg), exec i s = .next t → t.get r ≠ s.get r → writesReg i r = true) ∧
  (∀ (τ : Time) (s : State) (r : Reg), (engine τ s).get r ≠ s.get r → ∃ c, r = .cur c) ∧
  (∀ (s : State) (r : Reg), (tickInterrupt s).get r = s.get r) ∧
  ∀ s t : State, s.Inv → step s = .next t →
    (∀ r : Reg, t.get r ≠ s.get r →
      ResetsNext s ∨ (∃ i, RunsNext i s ∧ writesReg i r = true) ∨
      (PollsNext s ∧ s.updated = true ∧ ∃ c, r = .cur c) ∨
      (s.serState = .latch ∧ s.afterRender = .snap ∧ ∃ c, r = .tgt c)) ∧
    (t.status ≠ s.status → ResetsNext s ∨ ∃ i, RunsNext i s ∧ writesStatus i = true) ∧
    (t.indicator ≠ s.indicator →
      ResetsNext s ∨ (∃ i, RunsNext i s ∧ writesIndicator i = true) ∨ (PollsNext s ∧ s.updated = true) ∨
      (s.serState = .latch ∧ ∃ τ, s.afterRender = .heartbeat τ)) ∧
    (t.time ≠ s.time → ResetsNext s ∨ TicksNext s) ∧
    (t.updated ≠ s.updated → ResetsNext s ∨ TicksNext s ∨ PollsNext s)

/-- 40_commands.md rule R135: exactly three cases render, one frame each. What such a command does after its `RENDER` (`SNAP` in
`RESET` and `COMMIT`, R121, R122) waits in the phased grain and is over in the untimed one (log 13). In the phased grain, that `Sent`
finds the frame recorded and the serializer at its start is the model's choice (logs 12, 14, 29). -/
def Obligations.CommandsRenderInExactlyThreeCases : Prop :=
  ∀ (i : Instr) (s t : State), exec i s = .next t →
    (rendersFrame i = true →
      Sent (frameOf t.cur) s t ∧ Awaits (if snapsTargets i then .snap else .nothing) s t) ∧
    (rendersFrame i = false → NothingSent s t) ∧
    (i = .commit → s.phased = true → t.indicator = s.status ∧ (∀ r, t.get r = s.get r))

/-- 40_commands.md rule R137: after a snapping command no fade is left, and the commands that set no colour keep it. Where the command
renders phase by phase, that holds once its `RENDER` returns (log 13). The phased grain is log 12. -/
def Obligations.SnappingCommandsLeaveNoFade : Prop :=
  ∀ (i : Instr) (s t : State), exec i s = .next t →
    (snapsTargets i = true →
      (s.phased = false ∨ rendersFrame i = false → t.tgt = t.cur ∧ ∀ τ, (engine τ t).cur = t.cur) ∧
      (s.phased = true → rendersFrame i = true →
        (renderReturns t).tgt = t.cur ∧ ∀ τ, (engine τ (renderReturns t)).cur = t.cur)) ∧
    (setsCurrent i = false → t.cur = s.cur) ∧ t.time = s.time ∧ t.updated = s.updated

/-- 41_timer.md rule R158: no command reads or writes `time` or `updated`. -/
def Obligations.CommandsNeitherReadNorWriteTheTimer : Prop :=
  ∀ (i : Instr) (s : State) (τ : Time) (u : Bool), ∃ t,
    exec i s = .next t ∧ t.time = s.time ∧ t.updated = s.updated ∧
    exec i { s with time := τ, updated := u } = .next { t with time := τ, updated := u }

/-- 70_reset_and_hazards.md rule R264: after a `SET_` command and with blinking off, an engine pass sends nothing. -/
def Obligations.SettingAColourDoesNotShowIt : Prop :=
  ∀ (s : State) (value : Word16) (τ : Time) (i : Instr),
    i = .setRed value ∨ i = .setGreen value ∨ i = .setBlue value → s.period = 0#16 →
    ∃ t, exec i s = .next t ∧ NothingSent s t ∧ NothingSent t (engine τ t)

/-- 70_reset_and_hazards.md rule R267: `RESET`, `SET_FADE_RATE 256` and `SET_BLINK 0, 0` restore the power-on DeviceState, and
`RESET` alone keeps `rate`, `duty`, `period` and `time`. That the power-on value of `duty` is 0 is the spec's decision D3 (log 9). -/
def Obligations.ThreeCommandsRestoreDeviceState : Prop :=
  ∀ s : State, ∃ t u v, exec .reset s = .next t ∧ exec (.setFadeRate 256#16) t = .next u ∧
    exec .blinkOff u = .next v ∧
    t.rate = s.rate ∧ t.duty = s.duty ∧ t.period = s.period ∧ t.time = s.time ∧
    (∀ r, v.get r = State.reset.get r) ∧ v.status = State.reset.status

/-! ## The timer -/

/-- 41_timer.md rule R151: a compare-match that is not masked. -/
def Obligations.FiredTickWritesTimeAndFlagOnly : Prop :=
  ∀ (s : State) (rest : List Input), s.inputs = .tickEv :: rest → s.irqMask = false →
    step s = .next { s with inputs := rest, time := s.time + 1#32, updated := true }

/-- 41_timer.md rule R152: a masked compare-match changes nothing and is not remembered (the spec's decision D4, log 10). -/
def Obligations.MaskedTickIsDropped : Prop :=
  ∀ (s : State) (rest : List Input), s.inputs = .tickEv :: rest → s.irqMask = true →
    step s = .next { s with inputs := rest }

/-- 41_timer.md rule R153: `READ_AND_CLEAR()`, and a second call with no tick between. -/
def Obligations.ReadAndClearReturnsThePairAndClears : Prop :=
  ∀ s : State,
    (readAndClear s).1 = { time := s.time, updated := s.updated } ∧
    (readAndClear s).2 = { s with updated := false } ∧
    (readAndClear (readAndClear s).2).1 = { time := s.time, updated := false } ∧
    (readAndClear (readAndClear s).2).2 = (readAndClear s).2

/-- 41_timer.md rules R154, 20_memory.md rule R69 (the spec's decision D5, log 11): a compare-match in the cycle of a poll's
READ_AND_CLEAR is the same as one right after that poll. -/
def Obligations.TickWithReadAndClearIsTickAfterPoll : Prop :=
  ∀ (s : State) (rest : List Input), s.seq = .idle → s.irqMask = false → s.phased = false →
    ∃ t, runSteps 1 { s with inputs := .pollTick :: rest } = .next t ∧
      runSteps 2 { s with inputs := .poll :: .tickEv :: rest } = .next t

/-- 41_timer.md rule R155: `time` counts fired ticks modulo 2^32. -/
def Obligations.TimeCountsFiredTicks : Prop :=
  ∀ (n : Nat) (s : State), s.irqMask = false →
    (readAndClear (ticks n s)).1.time.toNat = (s.time.toNat + n) % 2 ^ 32 ∧
    (ticks n s) = { s with time := (ticks n s).time, updated := (ticks n s).updated } ∧
    (n ≠ 0 → (ticks n s).updated = true)

/-- 41_timer.md rule R157: snapshots with the flag set never outnumber ticks (and the flag that was set at the start). -/
def Obligations.ElapsedFlagNeverOvercounts : Prop :=
  ∀ (os : List TimerOp) (s : State),
    ((snapshots os s).filter (·.updated)).length ≤ os.count .tick + (if s.updated then 1 else 0)

/-- 20_memory.md rule R69: a tick commutes with a command transaction, dropped and unrecognised packets included. -/
def Obligations.TickCommutesWithCommandPackets : Prop :=
  ∀ (s : State) (bytes : List Byte) (rest : List Input),
    s.seq = .idle → s.irqMask = false → s.phased = false → bytes.length = 10 →
    ∃ t, runSteps 2 { s with inputs := .tickEv :: .packet bytes :: rest } = .next t ∧
      runSteps 2 { s with inputs := .packet bytes :: .tickEv :: rest } = .next t

/-! ## The poll and the engine -/

/-- 42_fade_blink_engine.md rule R170, the gate: a poll that finds the flag clear changes nothing; one that finds it set clears it
and runs the engine once, on the snapshot's `time` (the spec's decision D17, log 17). With no input left the idle sequencer polls
(20_memory.md rule R70; log 1). -/
def Obligations.PollRunsTheEngineOncePerFlag : Prop :=
  ∀ (s : State) (rest : List Input), s.inputs = .poll :: rest ∨ (s.inputs = [] ∧ rest = []) →
    s.seq = .idle → s.serState = .idle → s.afterRender = .nothing →
    (s.updated = false → step s = .next { s with inputs := rest }) ∧
    (s.updated = true →
      step s = .next (endTransaction (engine s.time { s with inputs := rest, seq := .poll, updated := false })))

/-- 42_fade_blink_engine.md rules R171, R172: one engine pass moves every channel toward its target by the smaller of the distance
and `rate`, in exact integers, so nothing overshoots or wraps; `changed` is set exactly where a channel differs on entry, at `rate = 0`
too, which is the spec's decision D20 of rule R173 (log 18). -/
def Obligations.FadeStepMovesByAtMostRate : Prop :=
  ∀ (s : State) (τ : Time),
    (∀ c : Chan,
      let cur := (s.cur.get c).toNat
      let tgt := (s.tgt.get c).toNat
      let new := ((engine τ s).cur.get c).toNat
      (cur = tgt → new = cur) ∧
      (cur < tgt → new = cur + min (tgt - cur) s.rate.toNat ∧ new ≤ tgt) ∧
      (tgt < cur → new = cur - min (cur - tgt) s.rate.toNat ∧ tgt ≤ new)) ∧
    (changedFlag s.cur s.tgt = true ↔ ∃ c, s.cur.get c ≠ s.tgt.get c)

/-- 42_fade_blink_engine.md rule R173: with `rate > 0`, `changed` says that some channel gets a new value. -/
def Obligations.ChangedMeansAChannelMoves : Prop :=
  ∀ (s : State) (τ : Time), s.rate ≠ 0#16 →
    (changedFlag s.cur s.tgt = true ↔ (engine τ s).cur ≠ s.cur)

/-- 42_fade_blink_engine.md rules R174, R175: the blink overlay, in exact integers. -/
def Obligations.BlinkOverlayAtItsTwoInstants : Prop :=
  ∀ (duty period : Word16) (t : Time),
    (period = 0#16 → blinkOverlay duty period t = { refresh := false, black := false }) ∧
    (period ≠ 0#16 →
      let m := t.toNat % period.toNat
      (m = duty.toNat → blinkOverlay duty period t = { refresh := true, black := true }) ∧
      (m ≠ duty.toNat → m = 0 → blinkOverlay duty period t = { refresh := true, black := false }) ∧
      (m ≠ duty.toNat → m ≠ 0 → blinkOverlay duty period t = { refresh := false, black := false }))

/-- 42_fade_blink_engine.md rule R176: `duty = 0` shows black at its only instant; `duty >= period > 0` never shows black, which the
spec preserves by its decision D22 (log 19). -/
def Obligations.BlinkCornersOfDuty : Prop :=
  ∀ (duty period : Word16) (t : Time), period ≠ 0#16 →
    (duty = 0#16 → blinkOverlay duty period t =
      { refresh := t.toNat % period.toNat == 0, black := t.toNat % period.toNat == 0 }) ∧
    (period ≤ duty → blinkOverlay duty period t =
      { refresh := t.toNat % period.toNat == 0, black := false }) ∧
    (period = 1#16 → (blinkOverlay duty period t).refresh = true)

/-- 42_fade_blink_engine.md rule R177: nothing, the post-fade colour, or black. `changed` compares `cur` and `tgt` on entry, at
`rate = 0` too (rule R173, the spec's decision D20, log 18). In the phased grain, that `Sent` finds the frame recorded and the serializer at
its start is the model's choice (logs 12, 14, 29). -/
def Obligations.EngineRendersByTheDecisionTable : Prop :=
  ∀ (s : State) (τ : Time),
    let changed := changedFlag s.cur s.tgt
    let o := blinkOverlay s.duty s.period τ
    (changed = false → o.refresh = false → NothingSent s (engine τ s)) ∧
    (changed = true → o.refresh = false → Sent (frameOf (engine τ s).cur) s (engine τ s)) ∧
    (o.refresh = true → o.black = false → Sent (frameOf (engine τ s).cur) s (engine τ s)) ∧
    (o.refresh = true → o.black = true → Sent 0x000000#24 s (engine τ s))

/-- 42_fade_blink_engine.md rule R178: the heartbeat, and that every engine pass does it, whatever else the pass does: at once where
the pass is stepped whole or sends nothing, and once its `RENDER` returns where it is stepped phase by phase (rules R179, R190; log
13; `changed`: log 18). The phased grain is log 12. -/
def Obligations.HeartbeatPulsesTheIndicator : Prop :=
  ∀ (s : State) (τ : Time),
    (τ.toNat % 1000 = 0 → heartbeat τ s = { s with indicator := true }) ∧
    (τ.toNat % 1000 = 10 → heartbeat τ s = { s with indicator := false }) ∧
    (τ.toNat % 1000 ≠ 0 → τ.toNat % 1000 ≠ 10 → heartbeat τ s = s) ∧
    (let sends := changedFlag s.cur s.tgt || (blinkOverlay s.duty s.period τ).refresh
     (s.phased = false ∨ sends = false → (engine τ s).indicator = (heartbeat τ s).indicator) ∧
     (s.phased = true → sends = true →
       (engine τ s).indicator = s.indicator ∧ (engine τ s).afterRender = .heartbeat τ ∧
       (renderReturns (engine τ s)).indicator = (heartbeat τ s).indicator))

/-- 42_fade_blink_engine.md rule R179: what an engine pass leaves as it was. In the phased grain the heartbeat of a pass that sends a
frame waits for its `RENDER` (rule R190; log 13). In the phased grain, that `Sent` finds the frame recorded and the serializer at its
start is the model's choice (logs 12, 14, 29). -/
def Obligations.EngineFrame : Prop :=
  ∀ (s : State) (τ : Time),
    (engine τ s).tgt = s.tgt ∧ (engine τ s).rate = s.rate ∧ (engine τ s).duty = s.duty ∧
    (engine τ s).period = s.period ∧ (engine τ s).status = s.status ∧ OutsideKept s (engine τ s) ∧
    (NothingSent s (engine τ s) ∨ ∃ f, Sent f s (engine τ s) ∧ Awaits (.heartbeat τ) s (engine τ s))

/-- 42_fade_blink_engine.md rule R181: after `n` ticks, each followed by a poll, every channel stands `n` steps of `rate` nearer its
target, and no further than the target. -/
def Obligations.FadeIsLinearOverPolledTicks : Prop :=
  ∀ (n : Nat) (s : State) (rest : List Input), s.Inv → s.phased = false → s.inputs = tickPolls n ++ rest →
    ∃ t, runSteps (2 * n) s = .next t ∧ t.inputs = rest ∧ t.tgt = s.tgt ∧
      ∀ c : Chan,
        (s.cur.get c ≤ s.tgt.get c →
          (t.cur.get c).toNat = min (s.tgt.get c).toNat ((s.cur.get c).toNat + n * s.rate.toNat)) ∧
        (s.tgt.get c ≤ s.cur.get c →
          (t.cur.get c).toNat = max (s.tgt.get c).toNat ((s.cur.get c).toNat - n * s.rate.toNat))

/-- 42_fade_blink_engine.md rule R182: with no fade and a pass for every value of `time`, from a colour instant on, the lamp shows the
colour while `t mod period < duty` and black for the rest of each period. -/
def Obligations.BlinkShowsColourThenBlack : Prop :=
  ∀ (n : Nat) (s : State) (rest : List Input),
    s.Inv → s.phased = false → s.cur = s.tgt → s.inputs = tickPolls n ++ rest → 1 ≤ n →
    s.time.toNat + n < 2 ^ 32 → (s.time.toNat + 1) % s.period.toNat = 0 →
    0#16 < s.duty → s.duty < s.period →
    ∃ t, runSteps (2 * n) s = .next t ∧
      t.ledShown = some (if (s.time.toNat + n) % s.period.toNat < s.duty.toNat then frameOf s.cur else 0x000000#24)

/-- 42_fade_blink_engine.md rule R184: ticks between two polls give one pass, at the last `time` only. -/
def Obligations.SkippedTicksGiveOnePass : Prop :=
  ∀ (n : Nat) (s : State) (rest : List Input), s.seq = .idle → s.irqMask = false →
    s.inputs = List.replicate (n + 1) .tickEv ++ .poll :: rest →
    runSteps (n + 2) s = .next (endTransaction (engine (s.time + BitVec.ofNat 32 (n + 1))
      { s with time := s.time + BitVec.ofNat 32 (n + 1), updated := false, seq := .poll, inputs := rest }))

/-! ## The serializer -/

/-- 43_led_serializer.md rule R195: facts of every admissible gamma table; and the device's table is admissible (rule R194; log 2). -/
def Obligations.GammaEndsAndSteps : Prop :=
  (∀ g : GammaIndex → Byte, Config.GammaAdmissible g →
    g 0#9 = 0#8 ∧ g 1#9 = 1#8 ∧ g 511#9 = 255#8 ∧
    ∀ i : Nat, i < 511 →
      (g (BitVec.ofNat 9 (i + 1))).toNat = (g (BitVec.ofNat 9 i)).toNat ∨
      (g (BitVec.ofNat 9 (i + 1))).toNat = (g (BitVec.ofNat 9 i)).toNat + 1) ∧
  Config.GammaAdmissible Config.gamma

/-- 43_led_serializer.md rules R190, R191, R196: `RENDER` sends one frame, `{G8, R8, B8}`, each byte the gamma entry at the top nine
bits of its channel, and touches nothing else. In the phased grain, that `Sent` finds the frame recorded and the serializer at its
start is the model's choice (logs 12, 14, 29). -/
def Obligations.RenderSendsGreenRedBlue : Prop :=
  ∀ (v : Rgb) (s : State), ∃ f : Frame,
    f.extractLsb' 16 8 = Config.gamma (v.green.extractLsb' 7 9) ∧
    f.extractLsb' 8 8 = Config.gamma (v.red.extractLsb' 7 9) ∧
    f.extractLsb' 0 8 = Config.gamma (v.blue.extractLsb' 7 9) ∧
    Sent f s (render v s) ∧ OutsideKept s (render v s) ∧ (∀ r, (render v s).get r = s.get r) ∧
    (render v s).status = s.status ∧ (render v s).indicator = s.indicator ∧
    (render v s).afterRender = s.afterRender

/-- 43_led_serializer.md rules R196, R200: in the `k`-th slot (k = 1 to 24) the line is high, ticks are masked, and the bit sent is
`F[24 - k]`. -/
def Obligations.KthBitOnTheWireIsBit24MinusK : Prop :=
  ∀ (f : Frame) (s : State) (k : Nat), 1 ≤ k → k ≤ 24 →
    let slot := serRun (2 * (k - 1)) (serStart f s)
    slot.serState = .shift ∧ slot.ledDout = true ∧ slot.irqMask = true ∧
    slot.bitcnt.toNat = 24 - k ∧ slot.shreg.getMsbD 0 = f.getLsbD (24 - k)

/-- 43_led_serializer.md rules R202, R203 (nominal figures, log 15): the line's levels and durations over a whole frame. A slot is two
phases (log 14); the latch stands after the 24 slots, which is the spec's decision D15 (log 16). -/
def Obligations.WaveformOfAFrame : Prop :=
  ∀ (f : Frame) (s : State),
    waveform 49 (serStart f s) =
      (List.range 24).flatMap (fun j =>
        if f.getMsbD j then [(true, 900), (false, 350)] else [(true, 350), (false, 900)]) ++ [(false, 50000)]

/-- 43_led_serializer.md rules R201, R205: the masked window is 30 us and the whole `RENDER` at least 80 us, whatever the frame. The
figures are nominal (D13, log 15), a slot is two phases (log 14), and the latch is not masked (D15, log 16). -/
def Obligations.FrameTakesThirtyMaskedMicroseconds : Prop :=
  ∀ (f : Frame) (s : State),
    (∀ j, (serRun j (serStart f s)).irqMask = true ↔ j < 48) ∧
    ((waveform 48 (serStart f s)).map Prod.snd).sum = 30000 ∧
    ((waveform 49 (serStart f s)).map Prod.snd).sum = 80000

/-- 43_led_serializer.md rules R200, R201, 41_timer.md rule R152: whatever pulses fall between the phases of a frame, the frame ends
with the serializer at rest, the pulses of the first 48 phases are lost (the spec's decision D4, log 10), and each later one, in the
latch delay too (its decision D15, log 16), is a tick. The phases, and `shreg` and `bitcnt` 0 at the end, are log 14. -/
def Obligations.PulsesInTheMaskedWindowAreLost : Prop :=
  ∀ (es : List CycleEvent) (f : Frame) (s : State), es.count .phaseEnd = 49 →
    cycleRun es (serStart f s) =
      ticks (pulsesAfter 48 es)
        { s with serState := .idle, shreg := 0#24, bitcnt := 0#5, irqMask := false, ledDout := false }

/-- 20_memory.md rule R69: a transaction whose frame is stepped phase by phase ends in the state of the atomic transaction. The two
grains and the phases are logs 12, 13 and 14. -/
def Obligations.PhasedTransactionEndsAsTheAtomicOne : Prop :=
  ∀ (s : State) (x : Input) (rest : List Input), s.Inv → s.phased = false →
    (∃ bytes, x = .packet bytes ∧ bytes.length = 10) ∨ x = .poll ∨ x = .pollTick →
    ∃ t, step { s with inputs := x :: rest } = .next t ∧
      runSteps 50
        { s with inputs := x :: (List.replicate 49 .phaseEnd ++ rest), phased := true } =
        .next { t with phased := true }

/-! ## Reset and the environment -/

/-- 10_state.md rule R46, 70_reset_and_hazards.md rule R250: the reset table. The values of `duty`, `indicator`, `time`, `updated`,
`irqMask`, `ledDout`, the sequencing state and the empty trace are the spec's decisions D3, D14, D16, D18 (log 9); `afterRender` is the
model's (log 13). -/
def Obligations.ResetStateIsTheResetTable : Prop :=
  let s := State.reset
  s.cur = { red := 0#16, green := 0#16, blue := 0#16 } ∧ s.tgt = { red := 0#16, green := 0#16, blue := 0#16 } ∧
  s.rate = 256#16 ∧ s.period = 0#16 ∧ s.duty = 0#16 ∧ s.status = false ∧ s.indicator = false ∧
  s.time = 0#32 ∧ s.updated = false ∧ s.irqMask = false ∧ s.ledDout = false ∧
  s.seq = .idle ∧ s.serState = .idle ∧ s.bitcnt = 0#5 ∧ s.shreg = 0#24 ∧ s.afterRender = .nothing ∧ s.frames = [] ∧
  s.respLen = 0#8

/-- 70_reset_and_hazards.md rules R250, R251: power-on reset from any state, a frame under way included. -/
def Obligations.PowerOnResetsEverything : Prop :=
  ∀ (s : State) (rest : List Input), s.inputs = .powerOn :: rest →
    step s = .next { State.reset with inputs := rest, phased := s.phased }

/-- 60_exceptions.md rule R241 (the spec's decision D21, log 20): a USB bus reset changes nothing. -/
def Obligations.BusResetChangesNothing : Prop :=
  ∀ (s : State) (rest : List Input), s.inputs = .busReset :: rest → step s = .next { s with inputs := rest }

/-- The state after reset meets the invariant (tier 1 companion of `EveryStepKeepsTheInvariant`). The reset values the invariant reads
are the spec's decisions (log 9) and, for `afterRender`, the model's (log 13). -/
def Obligations.ResetMeetsTheInvariant : Prop := State.reset.Inv

/-- 10_state.md rules R24, R31, R37, R38: every step keeps the invariant, whatever the integrity function (30_encoding.md rule R98).
The clauses on the phased grain, on `afterRender` and on single phases rest on logs 12, 13 and 14. -/
def Obligations.EveryStepKeepsTheInvariant : Prop :=
  (∀ s t : State, s.Inv → step s = .next t → t.Inv) ∧
  (∀ (integrity : List Byte → Word16) (s t : State), s.Inv → stepWith integrity s = .next t → t.Inv)

/-- 60_exceptions.md rule R223: every step goes on, but for a packet that has not 10 bytes. -/
def Obligations.EveryStepGoesOn : Prop :=
  ∀ s : State,
    (∃ t, step s = .next t) ∨
    (s.seq = .idle ∧ ∃ bytes rest, s.inputs = .packet bytes :: rest ∧ bytes.length ≠ 10 ∧
      step s = .refused (.packetLength bytes.length))

/-- 10_state.md rule R40: the frame trace only grows, by at most one frame a step, but for a power-on reset. That the frame is
recorded where it starts is log 29. -/
def Obligations.FramesOnlyGrow : Prop :=
  ∀ s t : State, step s = .next t → (∀ rest, s.inputs ≠ .powerOn :: rest) →
    t.frames = s.frames ∨ ∃ f, t.frames = s.frames ++ [f]

/-- 20_memory.md rules R70, R78: in the untimed grain every input takes one step, so each is served in its turn. -/
def Obligations.InputsAreServedOneAStep : Prop :=
  ∀ (n : Nat) (s : State), s.Inv → s.phased = false →
    (∀ bytes, .packet bytes ∈ s.inputs → bytes.length = 10) → n ≤ s.inputs.length →
    ∃ t, runSteps n s = .next t ∧ t.inputs = s.inputs.drop n ∧ t.cmdReady = true

/-- 43_led_serializer.md rules R190, R203: a transaction under way ends within 49 phases, whatever inputs wait; `RENDER` always
returns. A step with a compare-match or a bus reset next is not one of the 49, a packet or poll next waits (log 27), and with no input
left the serializer goes on (log 1); unless a power-on reset cuts it short, no further frame is recorded (log 29). That a frame has 49
phases is log 14. -/
def Obligations.OpenTransactionEnds : Prop :=
  ∀ s : State, s.Inv → s.seq ≠ .idle →
    ∃ n t, n ≤ 49 + s.inputs.countP (fun x => x == .tickEv || x == .busReset) ∧
      runSteps n s = .next t ∧ t.seq = .idle ∧ t.inputs <:+ s.inputs ∧
      (.powerOn ∉ s.inputs → t.frames = s.frames)
end

