-- ==== Sys2Proof/Laws/Decode.lean ====
section
/-! SUPPORT. The integrity function as the linear map it is (spec/30_encoding.md rule R98), and the packet's fields. -/

namespace Sys2Proof

/-- One shift of the check. -/
def crcBit (crc : Word16) : Word16 := if crc.getLsbD 0 then (crc >>> 1) ^^^ 0xA001#16 else crc >>> 1

theorem crcBits_succ (n : Nat) (crc : Word16) : crcBits (n + 1) crc = crcBits n (crcBit crc) := by
  simp only [crcBits, crcBit]
  split <;> rfl

theorem crcBits_add (m n : Nat) (crc : Word16) : crcBits (m + n) crc = crcBits n (crcBits m crc) := by
  induction m generalizing crc with
  | zero => simp [crcBits]
  | succ m ih => rw [Nat.succ_add, crcBits_succ, crcBits_succ, ih]

theorem crcBit_xor (a b : Word16) : crcBit (a ^^^ b) = crcBit a ^^^ crcBit b := by
  simp only [crcBit, BitVec.getLsbD_xor, BitVec.ushiftRight_xor_distrib]
  cases a.getLsbD 0 <;> cases b.getLsbD 0 <;> simp <;> ac_nf
  simp

/-- The shifts are linear over exclusive or. -/
theorem crcBits_xor (n : Nat) (a b : Word16) : crcBits n (a ^^^ b) = crcBits n a ^^^ crcBits n b := by
  induction n generalizing a b with
  | zero => rfl
  | succ n ih => rw [crcBits_succ, crcBits_succ, crcBits_succ, crcBit_xor, ih]

theorem crcBit_eq_zero {d : Word16} (h : crcBit d = 0#16) : d = 0#16 := by
  unfold crcBit at h
  split at h
  · have := congrArg (fun w => BitVec.getLsbD w 15) h
    simp at this
  · rename_i h0
    have hn := congrArg BitVec.toNat h
    simp only [BitVec.toNat_ushiftRight, BitVec.toNat_ofNat, Nat.shiftRight_eq_div_pow] at hn
    have h0' : ¬ d.toNat % 2 = 1 := by simpa [BitVec.getLsbD, Nat.testBit] using h0
    exact BitVec.eq_of_toNat_eq (by simp only [BitVec.toNat_ofNat]; omega)

/-- No information is lost by the shifts. -/
theorem crcBits_injective (n : Nat) {a b : Word16} (h : crcBits n a = crcBits n b) : a = b := by
  have hz : ∀ (n : Nat) (d : Word16), crcBits n d = 0#16 → d = 0#16 := by
    intro n
    induction n with
    | zero => exact fun d hd => hd
    | succ n ih => exact fun d hd => crcBit_eq_zero (ih _ (by rwa [← crcBits_succ]))
  have hx : crcBits n (a ^^^ b) = 0#16 := by rw [crcBits_xor, h, BitVec.xor_self]
  have := hz n _ hx
  exact BitVec.xor_eq_zero_iff.mp this

/-- A byte in the high half is shifted down unchanged by eight shifts. -/
theorem crcBits_high (b : Byte) : crcBits 8 (b.setWidth 16 <<< 8) = b.setWidth 16 := by
  revert b
  decide +kernel

/-- Two bytes into the check are sixteen shifts of the check against the word they make. -/
theorem crcByte_two (crc : Word16) (lo hi : Byte) :
    crcByte (crcByte crc lo) hi = crcBits 16 (crc ^^^ (lo.setWidth 16 ^^^ hi.setWidth 16 <<< 8)) := by
  rw [crcBits_add 8 8, ← BitVec.xor_assoc, crcBits_xor 8 _ (hi.setWidth 16 <<< 8), crcBits_high]
  rfl

theorem integrity16_append_two (setup : List Byte) (lo hi : Byte) :
    integrity16 (setup ++ [lo, hi]) =
      crcBits 16 ((integrity16 setup ^^^ 0xFFFF#16) ^^^ (lo.setWidth 16 ^^^ hi.setWidth 16 <<< 8)) ^^^ 0xFFFF#16 := by
  have h : integrity16 setup ^^^ 0xFFFF#16 = setup.foldl crcByte 0xFFFF#16 := by
    rw [integrity16, BitVec.xor_assoc, BitVec.xor_self, BitVec.xor_zero]
  rw [h, ← crcByte_two, integrity16, List.foldl_append]
  rfl

/-! ### Packet fields -/

@[simp] theorem Word16.lo_ofBytes (lo hi : Byte) : (Word16.ofBytes lo hi).lo = lo := by
  simp only [Word16.lo, Word16.ofBytes]
  exact BitVec.extractLsb'_append_eq_right

@[simp] theorem Word16.hi_ofBytes (lo hi : Byte) : (Word16.ofBytes lo hi).hi = hi := by
  simp only [Word16.hi, Word16.ofBytes]
  exact BitVec.extractLsb'_append_eq_left

theorem Word16.toNat_ofBytes (lo hi : Byte) : (Word16.ofBytes lo hi).toNat = lo.toNat + 256 * hi.toNat := by
  have h := lo.isLt
  simp only [Word16.ofBytes, BitVec.toNat_append]
  rw [Nat.shiftLeft_eq, Nat.mul_comm, ← Nat.two_pow_add_eq_or_of_lt h]
  omega

@[simp] theorem Word16.ofBytes_lo_hi (w : Word16) : Word16.ofBytes w.lo w.hi = w := by
  apply BitVec.eq_of_toNat_eq
  have := w.isLt
  rw [Word16.toNat_ofBytes]
  simp only [Word16.lo, Word16.hi, BitVec.extractLsb'_toNat, Nat.shiftRight_eq_div_pow]
  omega

/-- The fields of a packet are read back from its bytes. -/
@[simp] theorem Packet.ofBytes_bytes (p : Packet) : Packet.ofBytes p.bytes = some p := by
  simp [Packet.bytes, Packet.setupBytes, Packet.ofBytes]

/-- Ten bytes are the bytes of the packet read from them. -/
theorem Packet.bytes_of_ofBytes {bytes : List Byte} {p : Packet} (h : Packet.ofBytes bytes = some p) : p.bytes = bytes := by
  unfold Packet.ofBytes at h
  split at h
  · cases h
    simp [Packet.bytes, Packet.setupBytes]
  · exact absurd h (by simp)

theorem Packet.ofBytes_isSome {bytes : List Byte} : (Packet.ofBytes bytes).isSome = true ↔ bytes.length = 10 := by
  constructor
  · intro h
    obtain ⟨p, hp⟩ := Option.isSome_iff_exists.mp h
    rw [← Packet.bytes_of_ofBytes hp]
    rfl
  · intro h
    match bytes, h with
    | [_, _, _, _, _, _, _, _, _, _], _ => rfl

/-! ### The 80-bit packet word (spec/30_encoding.md rule R99) -/

/-- The packet of a word, and the word of that packet. -/
@[simp] theorem wordOfPacket_packetOfWord (P : PacketWord) : wordOfPacket (packetOfWord P) = P := by
  apply BitVec.eq_of_toNat_eq
  have := P.isLt
  simp only [packetOfWord, wordOfPacket, BitVec.toNat_add, BitVec.toNat_shiftLeft, BitVec.toNat_setWidth,
    BitVec.extractLsb'_toNat, BitVec.toNat_ofNat, Nat.shiftRight_eq_div_pow, Nat.shiftLeft_eq]
  omega

/-- The lowest byte of a sum of bytes at rising places. -/
theorem extract_low_byte (b : Byte) (r : PacketWord) : (b.setWidth 80 + (r <<< 8)).extractLsb' 0 8 = b := by
  apply BitVec.eq_of_toNat_eq
  have := b.isLt
  simp only [BitVec.extractLsb'_toNat, BitVec.toNat_add, BitVec.toNat_shiftLeft, BitVec.toNat_setWidth,
    Nat.shiftRight_eq_div_pow, Nat.shiftLeft_eq]
  omega

/-- Its other bytes. -/
theorem extract_high_byte (b : Byte) (r : PacketWord) {n : Nat} (hn : n ≤ 64) :
    (b.setWidth 80 + (r <<< 8)).extractLsb' (n + 8) 8 = r.extractLsb' n 8 := by
  apply BitVec.eq_of_toNat_eq
  have hb := b.isLt
  simp only [BitVec.extractLsb'_toNat, BitVec.toNat_add, BitVec.toNat_shiftLeft, BitVec.toNat_setWidth,
    Nat.shiftRight_eq_div_pow, Nat.shiftLeft_eq]
  rw [Nat.add_comm n 8, Nat.pow_add, ← Nat.div_div_eq_div_mul]
  have hq : (b.toNat % 2 ^ 80 + r.toNat * 2 ^ 8 % 2 ^ 80) % 2 ^ 80 / 2 ^ 8 = r.toNat % (2 ^ n * 2 ^ (72 - n)) := by
    rw [← Nat.pow_add, show n + (72 - n) = 72 by omega]
    omega
  rw [hq, Nat.mod_mul_right_div_self, Nat.mod_mod_of_dvd _ (Nat.pow_dvd_pow 2 (by omega))]

/-- The other way round, for every packet. -/
theorem packetOfWord_wordOfPacket {bytes : List Byte} (h : bytes.length = 10) :
    packetOfWord (wordOfPacket bytes) = bytes := by
  match bytes, h with
  | [b0, b1, b2, b3, b4, b5, b6, b7, b8, b9], _ =>
    have hi := fun (b : Byte) (r : PacketWord) (n : Nat) (hn : n ≤ 64) => extract_high_byte b r hn
    simp only [packetOfWord, wordOfPacket, extract_low_byte, hi _ _ 0 (by omega), hi _ _ 8 (by omega),
      hi _ _ 16 (by omega), hi _ _ 24 (by omega), hi _ _ 32 (by omega), hi _ _ 40 (by omega), hi _ _ 48 (by omega),
      hi _ _ 56 (by omega), hi _ _ 64 (by omega)]

/-- The fields of a packet word, in the numbering of rule R99. -/
theorem Packet.ofBytes_packetOfWord (P : PacketWord) :
    Packet.ofBytes (packetOfWord P) =
      some { reqtype := P.extractLsb' 0 8, opcode := P.extractLsb' 8 8, value := P.extractLsb' 16 16,
             index := P.extractLsb' 32 16, length := P.extractLsb' 48 16, trailer := P.extractLsb' 64 16 } := by
  have key : ∀ n : Nat, Word16.ofBytes (P.extractLsb' n 8) (P.extractLsb' (n + 8) 8) = P.extractLsb' n 16 := by
    intro n
    apply BitVec.eq_of_toNat_eq
    rw [Word16.toNat_ofBytes]
    simp only [BitVec.extractLsb'_toNat, Nat.shiftRight_eq_div_pow, Nat.pow_add, ← Nat.div_div_eq_div_mul]
    omega
  simp only [packetOfWord, Packet.ofBytes, key 16, key 32, key 48, key 64]

/-- The mask of the table is bits 15 to 8. -/
theorem rowMask_getLsbD {k : Nat} (hk : k < 80) : rowMask.getLsbD k = decide (8 ≤ k ∧ k < 16) :=
  (by decide : ∀ k : Fin 80, rowMask.getLsbD k.val = decide (8 ≤ k.val ∧ k.val < 16)) ⟨k, hk⟩

/-- A packet word whose row of the opcode table is a command's: `P & mask = match` says that `P[15:8]` is its opcode. -/
theorem rowMatch_iff (P : PacketWord) (i : Instr) : P &&& rowMask = rowMatch i ↔ P.extractLsb' 8 8 = i.opcode := by
  constructor
  · intro h
    apply BitVec.eq_of_getLsbD_eq
    intro k hk
    have := congrArg (fun w => BitVec.getLsbD w (8 + k)) h
    simp only [rowMatch, BitVec.getLsbD_and, BitVec.getLsbD_shiftLeft, BitVec.getLsbD_setWidth,
      rowMask_getLsbD (show 8 + k < 80 by omega)] at this
    have h1 : 8 + k < 80 := by omega
    have h2 : k < 80 := by omega
    have h3 : 8 + k < 16 := by omega
    simpa [h1, h2, h3, hk] using this
  · intro h
    apply BitVec.eq_of_getLsbD_eq
    intro k hk
    simp only [rowMatch, ← h, BitVec.getLsbD_and, BitVec.getLsbD_shiftLeft, BitVec.getLsbD_setWidth,
      BitVec.getLsbD_extractLsb', rowMask_getLsbD hk]
    by_cases h8 : k < 8
    · simp [h8]
    · by_cases h16 : k < 16
      · have e : 8 + (k - 8) = k := by omega
        have h4 : k - 8 < 8 := by omega
        have h5 : k - 8 < 80 := by omega
        have h6 : 8 ≤ k := by omega
        simp [e, h4, h5, h6, h16, hk]
      · have h4 : ¬ k - 8 < 8 := by omega
        simp [h4, h16]

/-- A table word with a trailer is its packet, byte for byte. -/
theorem tablePacket_exact {w : Nat} (h : (BitVec.ofNat 80 (w % 2 ^ 80)).extractLsb' 64 16 ≠ 0#16) :
    tablePacket 80 w = packetOfWord (BitVec.ofNat 80 (w % 2 ^ 80)) := by
  unfold tablePacket completeTrailer
  refine if_neg fun hz => h ?_
  simp only [packetOfWord, List.drop_succ_cons, List.drop_zero, List.cons.injEq, and_true] at hz
  apply BitVec.eq_of_toNat_eq
  have h1 := congrArg BitVec.toNat hz.1
  have h2 := congrArg BitVec.toNat hz.2
  simp only [BitVec.extractLsb'_toNat, Nat.shiftRight_eq_div_pow, BitVec.toNat_ofNat] at h1 h2 ⊢
  omega

end Sys2Proof
end

