-- ==== Sys2Proof/Laws/Gamma.lean ====
section
/-! SUPPORT. The gamma ROM meets spec/43_led_serializer.md rule R194: what a proof may use about `Config.gamma`, and all of it
(rule R193). -/

namespace Sys2Proof

/-- A function on `0 .. n` that starts at 0 and rises by at most 1 takes every value up to its last. -/
theorem hits_every_value (f : Nat → Nat) (h0 : f 0 = 0) :
    ∀ n, (∀ i, i < n → f (i + 1) ≤ f i + 1) → ∀ y, y ≤ f n → ∃ i, i ≤ n ∧ f i = y := by
  intro n
  induction n with
  | zero =>
    intro _ y hy
    exact ⟨0, Nat.le_refl 0, by omega⟩
  | succ n ih =>
    intro hstep y hy
    by_cases hle : y ≤ f n
    · obtain ⟨i, hi, hfi⟩ := ih (fun i hi => hstep i (by omega)) y hle
      exact ⟨i, by omega, hfi⟩
    · have := hstep n (by omega)
      exact ⟨n + 1, Nat.le_refl _, by omega⟩

/-- `GAMMA_REF` before it is cut to a byte. -/
def gammaRefNat (i : Nat) : Nat := (255 * i * i + 511 * 511 - 1) / (511 * 511)

theorem gammaRefNat_mono {i j : Nat} (h : i ≤ j) : gammaRefNat i ≤ gammaRefNat j := by
  have hm : 255 * i * i ≤ 255 * j * j := Nat.mul_le_mul (Nat.mul_le_mul_left _ h) h
  exact Nat.div_le_div_right (by omega)

theorem gammaRefNat_le {i : Nat} (h : i ≤ 511) : gammaRefNat i ≤ 255 := gammaRefNat_mono h

theorem gammaRefNat_step (i : Nat) (h : i < 511) : gammaRefNat (i + 1) ≤ gammaRefNat i + 1 := by
  have hd : 255 * (i + 1) * (i + 1) = 255 * i * i + 255 * (2 * i + 1) := by ring
  unfold gammaRefNat
  rw [hd, ← Nat.add_div_right _ (by decide)]
  exact Nat.div_le_div_right (by omega)

theorem gammaRef_toNat {i : GammaIndex} : (Config.gammaRef i).toNat = gammaRefNat i.toNat := by
  have hi : i.toNat ≤ 511 := by have := i.isLt; omega
  have := gammaRefNat_le hi
  simp only [Config.gammaRef, BitVec.toNat_ofNat]
  exact Nat.mod_eq_of_lt (by simp only [gammaRefNat] at this; omega)

theorem gammaRef_admissible : Config.GammaAdmissible Config.gammaRef := by
  refine ⟨fun i j hij => ?_, by decide, fun i hi => ?_, fun y => ?_⟩
  · rw [BitVec.le_def, gammaRef_toNat, gammaRef_toNat]
    exact gammaRefNat_mono (Nat.le_of_lt hij)
  · rw [BitVec.le_def, gammaRef_toNat]
    exact gammaRefNat_mono (i := 1) (Nat.one_le_iff_ne_zero.mpr (fun h => hi (Fin.ext h)))
  · obtain ⟨i, hi, hy⟩ := hits_every_value gammaRefNat (by decide) 511 gammaRefNat_step y.val
      (by have : gammaRefNat 511 = 255 := by decide
          omega)
    exact ⟨⟨i, by omega⟩, BitVec.eq_of_toNat_eq (by rw [gammaRef_toNat]; simpa using hy)⟩

/-- Rule R194, for the device's table. -/
theorem gamma_admissible : Config.GammaAdmissible Config.gamma := by
  unfold Config.gamma
  split
  · assumption
  · exact gammaRef_admissible

/-- Every admissible table is a value the free table can have: then it is the device's. -/
theorem gamma_eq_free (h : Config.GammaAdmissible Config.gammaFree) : Config.gamma = Config.gammaFree := if_pos h

/-- G-ZERO. -/
@[simp] theorem gamma_zero : Config.gamma 0#9 = 0#8 := gamma_admissible.2.1

end Sys2Proof
end

