-- ==== Sys2Proof/Laws/State.lean ====
section
/-! SUPPORT. One lemma per field for every update of the state that is a plain record update, and the register file's laws. -/

namespace Sys2Proof.Machine

/-! ### Registers: read after write -/

@[simp] theorem Rgb.get_set_same (v : Rgb) (c : Chan) (x : Word16) : (v.set c x).get c = x := by cases c <;> rfl

theorem Rgb.get_set_other (v : Rgb) {c d : Chan} (x : Word16) (h : d ≠ c) : (v.set c x).get d = v.get d := by
  cases c <;> cases d <;> simp_all [Rgb.get, Rgb.set]

theorem Rgb.ext_get {v w : Rgb} (h : ∀ c, v.get c = w.get c) : v = w := by
  cases v; cases w
  have hr := h .red
  have hg := h .green
  have hb := h .blue
  simp_all [Rgb.get]

@[simp] theorem State.get_set_same (s : State) (r : Reg) (v : Word16) : (s.set r v).get r = v := by
  cases r <;> simp [State.get, State.set]

theorem State.get_set_other (s : State) {r q : Reg} (v : Word16) (h : q ≠ r) : (s.set r v).get q = s.get q := by
  cases r <;> cases q <;> simp_all [State.get, State.set, Rgb.get_set_other]

/-- `x[i]`: the index names one register (spec/10_state.md rule R20). -/
theorem Reg.index_injective {r q : Reg} (h : r.index = q.index) : r = q := by
  rcases r with c | c | _ | _ | _ <;> rcases q with d | d | _ | _ | _ <;> (try cases c) <;> (try cases d) <;>
    simp_all [Reg.index]

/-! ### One register written -/

@[simp] theorem State.set_status (s : State) (r : Reg) (v : Word16) : (s.set r v).status = s.status := by cases r <;> rfl

@[simp] theorem State.set_indicator (s : State) (r : Reg) (v : Word16) : (s.set r v).indicator = s.indicator := by cases r <;> rfl

@[simp] theorem State.set_time (s : State) (r : Reg) (v : Word16) : (s.set r v).time = s.time := by cases r <;> rfl

@[simp] theorem State.set_updated (s : State) (r : Reg) (v : Word16) : (s.set r v).updated = s.updated := by cases r <;> rfl

@[simp] theorem State.set_irqMask (s : State) (r : Reg) (v : Word16) : (s.set r v).irqMask = s.irqMask := by cases r <;> rfl

@[simp] theorem State.set_ledDout (s : State) (r : Reg) (v : Word16) : (s.set r v).ledDout = s.ledDout := by cases r <;> rfl

@[simp] theorem State.set_seq (s : State) (r : Reg) (v : Word16) : (s.set r v).seq = s.seq := by cases r <;> rfl

@[simp] theorem State.set_serState (s : State) (r : Reg) (v : Word16) : (s.set r v).serState = s.serState := by cases r <;> rfl

@[simp] theorem State.set_bitcnt (s : State) (r : Reg) (v : Word16) : (s.set r v).bitcnt = s.bitcnt := by cases r <;> rfl

@[simp] theorem State.set_shreg (s : State) (r : Reg) (v : Word16) : (s.set r v).shreg = s.shreg := by cases r <;> rfl

@[simp] theorem State.set_afterRender (s : State) (r : Reg) (v : Word16) : (s.set r v).afterRender = s.afterRender := by cases r <;> rfl

@[simp] theorem State.set_respLen (s : State) (r : Reg) (v : Word16) : (s.set r v).respLen = s.respLen := by cases r <;> rfl

@[simp] theorem State.set_frames (s : State) (r : Reg) (v : Word16) : (s.set r v).frames = s.frames := by cases r <;> rfl

@[simp] theorem State.set_responses (s : State) (r : Reg) (v : Word16) : (s.set r v).responses = s.responses := by cases r <;> rfl

@[simp] theorem State.set_inputs (s : State) (r : Reg) (v : Word16) : (s.set r v).inputs = s.inputs := by cases r <;> rfl

@[simp] theorem State.set_phased (s : State) (r : Reg) (v : Word16) : (s.set r v).phased = s.phased := by cases r <;> rfl


@[simp] theorem State.set_cur_cur (s : State) (c : Chan) (v : Word16) : (s.set (.cur c) v).cur = s.cur.set c v := rfl

@[simp] theorem State.set_cur_tgt (s : State) (c : Chan) (v : Word16) : (s.set (.cur c) v).tgt = s.tgt := rfl

@[simp] theorem State.set_cur_rate (s : State) (c : Chan) (v : Word16) : (s.set (.cur c) v).rate = s.rate := rfl

@[simp] theorem State.set_cur_duty (s : State) (c : Chan) (v : Word16) : (s.set (.cur c) v).duty = s.duty := rfl

@[simp] theorem State.set_cur_period (s : State) (c : Chan) (v : Word16) : (s.set (.cur c) v).period = s.period := rfl

@[simp] theorem State.set_tgt_cur (s : State) (c : Chan) (v : Word16) : (s.set (.tgt c) v).cur = s.cur := rfl

@[simp] theorem State.set_tgt_tgt (s : State) (c : Chan) (v : Word16) : (s.set (.tgt c) v).tgt = s.tgt.set c v := rfl

@[simp] theorem State.set_tgt_rate (s : State) (c : Chan) (v : Word16) : (s.set (.tgt c) v).rate = s.rate := rfl

@[simp] theorem State.set_tgt_duty (s : State) (c : Chan) (v : Word16) : (s.set (.tgt c) v).duty = s.duty := rfl

@[simp] theorem State.set_tgt_period (s : State) (c : Chan) (v : Word16) : (s.set (.tgt c) v).period = s.period := rfl

@[simp] theorem State.set_rate_cur (s : State) (v : Word16) : (s.set .rate v).cur = s.cur := rfl

@[simp] theorem State.set_rate_tgt (s : State) (v : Word16) : (s.set .rate v).tgt = s.tgt := rfl

@[simp] theorem State.set_rate_rate (s : State) (v : Word16) : (s.set .rate v).rate = v := rfl

@[simp] theorem State.set_rate_duty (s : State) (v : Word16) : (s.set .rate v).duty = s.duty := rfl

@[simp] theorem State.set_rate_period (s : State) (v : Word16) : (s.set .rate v).period = s.period := rfl

@[simp] theorem State.set_duty_cur (s : State) (v : Word16) : (s.set .duty v).cur = s.cur := rfl

@[simp] theorem State.set_duty_tgt (s : State) (v : Word16) : (s.set .duty v).tgt = s.tgt := rfl

@[simp] theorem State.set_duty_rate (s : State) (v : Word16) : (s.set .duty v).rate = s.rate := rfl

@[simp] theorem State.set_duty_duty (s : State) (v : Word16) : (s.set .duty v).duty = v := rfl

@[simp] theorem State.set_duty_period (s : State) (v : Word16) : (s.set .duty v).period = s.period := rfl

@[simp] theorem State.set_period_cur (s : State) (v : Word16) : (s.set .period v).cur = s.cur := rfl

@[simp] theorem State.set_period_tgt (s : State) (v : Word16) : (s.set .period v).tgt = s.tgt := rfl

@[simp] theorem State.set_period_rate (s : State) (v : Word16) : (s.set .period v).rate = s.rate := rfl

@[simp] theorem State.set_period_duty (s : State) (v : Word16) : (s.set .period v).duty = s.duty := rfl

@[simp] theorem State.set_period_period (s : State) (v : Word16) : (s.set .period v).period = v := rfl


/-! ### `SNAP()` -/

@[simp] theorem snap_cur (s : State) : (snap s).cur = s.cur := rfl

@[simp] theorem snap_tgt (s : State) : (snap s).tgt = s.cur := rfl

@[simp] theorem snap_rate (s : State) : (snap s).rate = s.rate := rfl

@[simp] theorem snap_duty (s : State) : (snap s).duty = s.duty := rfl

@[simp] theorem snap_period (s : State) : (snap s).period = s.period := rfl

@[simp] theorem snap_status (s : State) : (snap s).status = s.status := rfl

@[simp] theorem snap_indicator (s : State) : (snap s).indicator = s.indicator := rfl

@[simp] theorem snap_time (s : State) : (snap s).time = s.time := rfl

@[simp] theorem snap_updated (s : State) : (snap s).updated = s.updated := rfl

@[simp] theorem snap_irqMask (s : State) : (snap s).irqMask = s.irqMask := rfl

@[simp] theorem snap_ledDout (s : State) : (snap s).ledDout = s.ledDout := rfl

@[simp] theorem snap_seq (s : State) : (snap s).seq = s.seq := rfl

@[simp] theorem snap_serState (s : State) : (snap s).serState = s.serState := rfl

@[simp] theorem snap_bitcnt (s : State) : (snap s).bitcnt = s.bitcnt := rfl

@[simp] theorem snap_shreg (s : State) : (snap s).shreg = s.shreg := rfl

@[simp] theorem snap_afterRender (s : State) : (snap s).afterRender = s.afterRender := rfl

@[simp] theorem snap_respLen (s : State) : (snap s).respLen = s.respLen := rfl

@[simp] theorem snap_frames (s : State) : (snap s).frames = s.frames := rfl

@[simp] theorem snap_responses (s : State) : (snap s).responses = s.responses := rfl

@[simp] theorem snap_inputs (s : State) : (snap s).inputs = s.inputs := rfl

@[simp] theorem snap_phased (s : State) : (snap s).phased = s.phased := rfl


/-! ### What RESET clears -/

@[simp] theorem clearColours_cur (s : State) : (clearColours s).cur = Rgb.black := rfl

@[simp] theorem clearColours_tgt (s : State) : (clearColours s).tgt = Rgb.black := rfl

@[simp] theorem clearColours_rate (s : State) : (clearColours s).rate = s.rate := rfl

@[simp] theorem clearColours_duty (s : State) : (clearColours s).duty = s.duty := rfl

@[simp] theorem clearColours_period (s : State) : (clearColours s).period = s.period := rfl

@[simp] theorem clearColours_status (s : State) : (clearColours s).status = false := rfl

@[simp] theorem clearColours_indicator (s : State) : (clearColours s).indicator = s.indicator := rfl

@[simp] theorem clearColours_time (s : State) : (clearColours s).time = s.time := rfl

@[simp] theorem clearColours_updated (s : State) : (clearColours s).updated = s.updated := rfl

@[simp] theorem clearColours_irqMask (s : State) : (clearColours s).irqMask = s.irqMask := rfl

@[simp] theorem clearColours_ledDout (s : State) : (clearColours s).ledDout = s.ledDout := rfl

@[simp] theorem clearColours_seq (s : State) : (clearColours s).seq = s.seq := rfl

@[simp] theorem clearColours_serState (s : State) : (clearColours s).serState = s.serState := rfl

@[simp] theorem clearColours_bitcnt (s : State) : (clearColours s).bitcnt = s.bitcnt := rfl

@[simp] theorem clearColours_shreg (s : State) : (clearColours s).shreg = s.shreg := rfl

@[simp] theorem clearColours_afterRender (s : State) : (clearColours s).afterRender = s.afterRender := rfl

@[simp] theorem clearColours_respLen (s : State) : (clearColours s).respLen = s.respLen := rfl

@[simp] theorem clearColours_frames (s : State) : (clearColours s).frames = s.frames := rfl

@[simp] theorem clearColours_responses (s : State) : (clearColours s).responses = s.responses := rfl

@[simp] theorem clearColours_inputs (s : State) : (clearColours s).inputs = s.inputs := rfl

@[simp] theorem clearColours_phased (s : State) : (clearColours s).phased = s.phased := rfl


/-! ### The start of a frame -/

@[simp] theorem serStart_cur (f : Frame) (s : State) : (serStart f s).cur = s.cur := rfl

@[simp] theorem serStart_tgt (f : Frame) (s : State) : (serStart f s).tgt = s.tgt := rfl

@[simp] theorem serStart_rate (f : Frame) (s : State) : (serStart f s).rate = s.rate := rfl

@[simp] theorem serStart_duty (f : Frame) (s : State) : (serStart f s).duty = s.duty := rfl

@[simp] theorem serStart_period (f : Frame) (s : State) : (serStart f s).period = s.period := rfl

@[simp] theorem serStart_status (f : Frame) (s : State) : (serStart f s).status = s.status := rfl

@[simp] theorem serStart_indicator (f : Frame) (s : State) : (serStart f s).indicator = s.indicator := rfl

@[simp] theorem serStart_time (f : Frame) (s : State) : (serStart f s).time = s.time := rfl

@[simp] theorem serStart_updated (f : Frame) (s : State) : (serStart f s).updated = s.updated := rfl

@[simp] theorem serStart_irqMask (f : Frame) (s : State) : (serStart f s).irqMask = true := rfl

@[simp] theorem serStart_ledDout (f : Frame) (s : State) : (serStart f s).ledDout = true := rfl

@[simp] theorem serStart_seq (f : Frame) (s : State) : (serStart f s).seq = s.seq := rfl

@[simp] theorem serStart_serState (f : Frame) (s : State) : (serStart f s).serState = .shift := rfl

@[simp] theorem serStart_bitcnt (f : Frame) (s : State) : (serStart f s).bitcnt = 23#5 := rfl

@[simp] theorem serStart_shreg (f : Frame) (s : State) : (serStart f s).shreg = f := rfl

@[simp] theorem serStart_afterRender (f : Frame) (s : State) : (serStart f s).afterRender = s.afterRender := rfl

@[simp] theorem serStart_respLen (f : Frame) (s : State) : (serStart f s).respLen = s.respLen := rfl

@[simp] theorem serStart_frames (f : Frame) (s : State) : (serStart f s).frames = s.frames := rfl

@[simp] theorem serStart_responses (f : Frame) (s : State) : (serStart f s).responses = s.responses := rfl

@[simp] theorem serStart_inputs (f : Frame) (s : State) : (serStart f s).inputs = s.inputs := rfl

@[simp] theorem serStart_phased (f : Frame) (s : State) : (serStart f s).phased = s.phased := rfl


/-! ### The serializer at rest -/

@[simp] theorem serRest_cur (s : State) : (serRest s).cur = s.cur := rfl

@[simp] theorem serRest_tgt (s : State) : (serRest s).tgt = s.tgt := rfl

@[simp] theorem serRest_rate (s : State) : (serRest s).rate = s.rate := rfl

@[simp] theorem serRest_duty (s : State) : (serRest s).duty = s.duty := rfl

@[simp] theorem serRest_period (s : State) : (serRest s).period = s.period := rfl

@[simp] theorem serRest_status (s : State) : (serRest s).status = s.status := rfl

@[simp] theorem serRest_indicator (s : State) : (serRest s).indicator = s.indicator := rfl

@[simp] theorem serRest_time (s : State) : (serRest s).time = s.time := rfl

@[simp] theorem serRest_updated (s : State) : (serRest s).updated = s.updated := rfl

@[simp] theorem serRest_irqMask (s : State) : (serRest s).irqMask = false := rfl

@[simp] theorem serRest_ledDout (s : State) : (serRest s).ledDout = false := rfl

@[simp] theorem serRest_seq (s : State) : (serRest s).seq = s.seq := rfl

@[simp] theorem serRest_serState (s : State) : (serRest s).serState = .idle := rfl

@[simp] theorem serRest_bitcnt (s : State) : (serRest s).bitcnt = 0#5 := rfl

@[simp] theorem serRest_shreg (s : State) : (serRest s).shreg = 0#24 := rfl

@[simp] theorem serRest_afterRender (s : State) : (serRest s).afterRender = s.afterRender := rfl

@[simp] theorem serRest_respLen (s : State) : (serRest s).respLen = s.respLen := rfl

@[simp] theorem serRest_frames (s : State) : (serRest s).frames = s.frames := rfl

@[simp] theorem serRest_responses (s : State) : (serRest s).responses = s.responses := rfl

@[simp] theorem serRest_inputs (s : State) : (serRest s).inputs = s.inputs := rfl

@[simp] theorem serRest_phased (s : State) : (serRest s).phased = s.phased := rfl


/-! ### The fade step -/

@[simp] theorem fadeStep_cur (s : State) : (fadeStep s).cur = fadeRgb s.rate s.cur s.tgt := rfl

@[simp] theorem fadeStep_tgt (s : State) : (fadeStep s).tgt = s.tgt := rfl

@[simp] theorem fadeStep_rate (s : State) : (fadeStep s).rate = s.rate := rfl

@[simp] theorem fadeStep_duty (s : State) : (fadeStep s).duty = s.duty := rfl

@[simp] theorem fadeStep_period (s : State) : (fadeStep s).period = s.period := rfl

@[simp] theorem fadeStep_status (s : State) : (fadeStep s).status = s.status := rfl

@[simp] theorem fadeStep_indicator (s : State) : (fadeStep s).indicator = s.indicator := rfl

@[simp] theorem fadeStep_time (s : State) : (fadeStep s).time = s.time := rfl

@[simp] theorem fadeStep_updated (s : State) : (fadeStep s).updated = s.updated := rfl

@[simp] theorem fadeStep_irqMask (s : State) : (fadeStep s).irqMask = s.irqMask := rfl

@[simp] theorem fadeStep_ledDout (s : State) : (fadeStep s).ledDout = s.ledDout := rfl

@[simp] theorem fadeStep_seq (s : State) : (fadeStep s).seq = s.seq := rfl

@[simp] theorem fadeStep_serState (s : State) : (fadeStep s).serState = s.serState := rfl

@[simp] theorem fadeStep_bitcnt (s : State) : (fadeStep s).bitcnt = s.bitcnt := rfl

@[simp] theorem fadeStep_shreg (s : State) : (fadeStep s).shreg = s.shreg := rfl

@[simp] theorem fadeStep_afterRender (s : State) : (fadeStep s).afterRender = s.afterRender := rfl

@[simp] theorem fadeStep_respLen (s : State) : (fadeStep s).respLen = s.respLen := rfl

@[simp] theorem fadeStep_frames (s : State) : (fadeStep s).frames = s.frames := rfl

@[simp] theorem fadeStep_responses (s : State) : (fadeStep s).responses = s.responses := rfl

@[simp] theorem fadeStep_inputs (s : State) : (fadeStep s).inputs = s.inputs := rfl

@[simp] theorem fadeStep_phased (s : State) : (fadeStep s).phased = s.phased := rfl


/-! ### The heartbeat -/

@[simp] theorem heartbeat_cur (t : Time) (s : State) : (heartbeat t s).cur = s.cur := rfl

@[simp] theorem heartbeat_tgt (t : Time) (s : State) : (heartbeat t s).tgt = s.tgt := rfl

@[simp] theorem heartbeat_rate (t : Time) (s : State) : (heartbeat t s).rate = s.rate := rfl

@[simp] theorem heartbeat_duty (t : Time) (s : State) : (heartbeat t s).duty = s.duty := rfl

@[simp] theorem heartbeat_period (t : Time) (s : State) : (heartbeat t s).period = s.period := rfl

@[simp] theorem heartbeat_status (t : Time) (s : State) : (heartbeat t s).status = s.status := rfl

@[simp] theorem heartbeat_indicator (t : Time) (s : State) : (heartbeat t s).indicator = heartbeatFlag t s.indicator := rfl

@[simp] theorem heartbeat_time (t : Time) (s : State) : (heartbeat t s).time = s.time := rfl

@[simp] theorem heartbeat_updated (t : Time) (s : State) : (heartbeat t s).updated = s.updated := rfl

@[simp] theorem heartbeat_irqMask (t : Time) (s : State) : (heartbeat t s).irqMask = s.irqMask := rfl

@[simp] theorem heartbeat_ledDout (t : Time) (s : State) : (heartbeat t s).ledDout = s.ledDout := rfl

@[simp] theorem heartbeat_seq (t : Time) (s : State) : (heartbeat t s).seq = s.seq := rfl

@[simp] theorem heartbeat_serState (t : Time) (s : State) : (heartbeat t s).serState = s.serState := rfl

@[simp] theorem heartbeat_bitcnt (t : Time) (s : State) : (heartbeat t s).bitcnt = s.bitcnt := rfl

@[simp] theorem heartbeat_shreg (t : Time) (s : State) : (heartbeat t s).shreg = s.shreg := rfl

@[simp] theorem heartbeat_afterRender (t : Time) (s : State) : (heartbeat t s).afterRender = s.afterRender := rfl

@[simp] theorem heartbeat_respLen (t : Time) (s : State) : (heartbeat t s).respLen = s.respLen := rfl

@[simp] theorem heartbeat_frames (t : Time) (s : State) : (heartbeat t s).frames = s.frames := rfl

@[simp] theorem heartbeat_responses (t : Time) (s : State) : (heartbeat t s).responses = s.responses := rfl

@[simp] theorem heartbeat_inputs (t : Time) (s : State) : (heartbeat t s).inputs = s.inputs := rfl

@[simp] theorem heartbeat_phased (t : Time) (s : State) : (heartbeat t s).phased = s.phased := rfl


/-! ### Power-on reset -/

@[simp] theorem powerOn_cur (s : State) : (powerOn s).cur = State.reset.cur := rfl

@[simp] theorem powerOn_tgt (s : State) : (powerOn s).tgt = State.reset.tgt := rfl

@[simp] theorem powerOn_rate (s : State) : (powerOn s).rate = State.reset.rate := rfl

@[simp] theorem powerOn_duty (s : State) : (powerOn s).duty = State.reset.duty := rfl

@[simp] theorem powerOn_period (s : State) : (powerOn s).period = State.reset.period := rfl

@[simp] theorem powerOn_status (s : State) : (powerOn s).status = State.reset.status := rfl

@[simp] theorem powerOn_indicator (s : State) : (powerOn s).indicator = State.reset.indicator := rfl

@[simp] theorem powerOn_time (s : State) : (powerOn s).time = State.reset.time := rfl

@[simp] theorem powerOn_updated (s : State) : (powerOn s).updated = State.reset.updated := rfl

@[simp] theorem powerOn_irqMask (s : State) : (powerOn s).irqMask = State.reset.irqMask := rfl

@[simp] theorem powerOn_ledDout (s : State) : (powerOn s).ledDout = State.reset.ledDout := rfl

@[simp] theorem powerOn_seq (s : State) : (powerOn s).seq = State.reset.seq := rfl

@[simp] theorem powerOn_serState (s : State) : (powerOn s).serState = State.reset.serState := rfl

@[simp] theorem powerOn_bitcnt (s : State) : (powerOn s).bitcnt = State.reset.bitcnt := rfl

@[simp] theorem powerOn_shreg (s : State) : (powerOn s).shreg = State.reset.shreg := rfl

@[simp] theorem powerOn_afterRender (s : State) : (powerOn s).afterRender = State.reset.afterRender := rfl

@[simp] theorem powerOn_respLen (s : State) : (powerOn s).respLen = State.reset.respLen := rfl

@[simp] theorem powerOn_frames (s : State) : (powerOn s).frames = State.reset.frames := rfl

@[simp] theorem powerOn_responses (s : State) : (powerOn s).responses = State.reset.responses := rfl

@[simp] theorem powerOn_inputs (s : State) : (powerOn s).inputs = s.inputs := rfl

@[simp] theorem powerOn_phased (s : State) : (powerOn s).phased = s.phased := rfl


end Sys2Proof.Machine
end

