-- ==== Sys2Proof/Laws/Serializer.lean ====
section
/-! SUPPORT. What the serializer does: its runs in closed form, and what `emit` and `render` leave. -/

namespace Sys2Proof.Machine

theorem serRun_add (m n : Nat) (s : State) : serRun (m + n) s = serRun n (serRun m s) := by
  induction m generalizing s with
  | zero => simp [serRun]
  | succ m ih => rw [Nat.succ_add]; exact ih (serAdvance s)

theorem serRun_succ (n : Nat) (s : State) : serRun (n + 1) s = serAdvance (serRun n s) := serRun_add n 1 s

/-- Phase `j` of the 48 of the shift, counted from 0: slot `j / 2`, high when `j` is even. -/
theorem serRun_shift (f : Frame) (s : State) (j : Nat) (hj : j < 48) :
    serRun j (serStart f s) =
      { s with serState := .shift, shreg := f <<< (j / 2), bitcnt := BitVec.ofNat 5 (23 - j / 2),
               irqMask := true, ledDout := j % 2 == 0 } := by
  induction j with
  | zero => simp [serRun, serStart]
  | succ j ih =>
    rw [serRun_succ, ih (by omega)]
    by_cases hp : j % 2 = 0
    · have h1 : (j + 1) / 2 = j / 2 := by omega
      have h2 : (j + 1) % 2 = 1 := by omega
      simp [serAdvance, hp, h1, h2]
    · have h0 : j % 2 = 1 := by omega
      have h1 : (j + 1) / 2 = j / 2 + 1 := by omega
      have h2 : (j + 1) % 2 = 0 := by omega
      have hne : BitVec.ofNat 5 (23 - j / 2) ≠ 0#5 := by
        intro h
        have := congrArg BitVec.toNat h
        simp only [BitVec.toNat_ofNat] at this
        omega
      have hsub : BitVec.ofNat 5 (23 - j / 2) - 1#5 = BitVec.ofNat 5 (23 - (j / 2 + 1)) := by
        apply BitVec.eq_of_toNat_eq
        simp only [BitVec.toNat_sub, BitVec.toNat_ofNat]
        omega
      simp [serAdvance, h0, h1, h2, hne, hsub, BitVec.shiftLeft_add]

/-- A whole frame, phase by phase, leaves the serializer at rest and nothing else changed. -/
theorem serRun_frame (f : Frame) (s : State) : serRun framePhases (serStart f s) = serRest s := by
  rw [show framePhases = 47 + 1 + 1 from rfl, serRun_succ, serRun_succ, serRun_shift f s 47 (by omega)]
  rfl

/-! ### `emit` -/

theorem emit_whole {f : Frame} {s : State} (h : s.phased = false) :
    emit f s = serRest { s with frames := s.frames ++ [f] } := by
  simp [emit, h]

theorem emit_phased {f : Frame} {s : State} (h : s.phased = true) :
    emit f s = serStart f { s with frames := s.frames ++ [f] } := by
  simp [emit, h]

@[simp] theorem emit_cur (f : Frame) (s : State) : (emit f s).cur = s.cur := by
  cases h : s.phased <;> simp [emit, h]

@[simp] theorem emit_tgt (f : Frame) (s : State) : (emit f s).tgt = s.tgt := by
  cases h : s.phased <;> simp [emit, h]

@[simp] theorem emit_rate (f : Frame) (s : State) : (emit f s).rate = s.rate := by
  cases h : s.phased <;> simp [emit, h]

@[simp] theorem emit_duty (f : Frame) (s : State) : (emit f s).duty = s.duty := by
  cases h : s.phased <;> simp [emit, h]

@[simp] theorem emit_period (f : Frame) (s : State) : (emit f s).period = s.period := by
  cases h : s.phased <;> simp [emit, h]

@[simp] theorem emit_status (f : Frame) (s : State) : (emit f s).status = s.status := by
  cases h : s.phased <;> simp [emit, h]

@[simp] theorem emit_indicator (f : Frame) (s : State) : (emit f s).indicator = s.indicator := by
  cases h : s.phased <;> simp [emit, h]

@[simp] theorem emit_time (f : Frame) (s : State) : (emit f s).time = s.time := by
  cases h : s.phased <;> simp [emit, h]

@[simp] theorem emit_updated (f : Frame) (s : State) : (emit f s).updated = s.updated := by
  cases h : s.phased <;> simp [emit, h]

@[simp] theorem emit_seq (f : Frame) (s : State) : (emit f s).seq = s.seq := by
  cases h : s.phased <;> simp [emit, h]

@[simp] theorem emit_respLen (f : Frame) (s : State) : (emit f s).respLen = s.respLen := by
  cases h : s.phased <;> simp [emit, h]

@[simp] theorem emit_afterRender (f : Frame) (s : State) : (emit f s).afterRender = s.afterRender := by
  cases h : s.phased <;> simp [emit, h]

@[simp] theorem emit_responses (f : Frame) (s : State) : (emit f s).responses = s.responses := by
  cases h : s.phased <;> simp [emit, h]

@[simp] theorem emit_inputs (f : Frame) (s : State) : (emit f s).inputs = s.inputs := by
  cases h : s.phased <;> simp [emit, h]

@[simp] theorem emit_grain (f : Frame) (s : State) : (emit f s).phased = s.phased := by
  cases h : s.phased <;> simp [emit, h]

@[simp] theorem emit_frames (f : Frame) (s : State) : (emit f s).frames = s.frames ++ [f] := by
  cases h : s.phased <;> simp [emit, h]

@[simp] theorem render_cur (v : Rgb) (s : State) : (render v s).cur = s.cur := emit_cur _ s

@[simp] theorem render_tgt (v : Rgb) (s : State) : (render v s).tgt = s.tgt := emit_tgt _ s

@[simp] theorem render_rate (v : Rgb) (s : State) : (render v s).rate = s.rate := emit_rate _ s

@[simp] theorem render_duty (v : Rgb) (s : State) : (render v s).duty = s.duty := emit_duty _ s

@[simp] theorem render_period (v : Rgb) (s : State) : (render v s).period = s.period := emit_period _ s

@[simp] theorem render_status (v : Rgb) (s : State) : (render v s).status = s.status := emit_status _ s

@[simp] theorem render_indicator (v : Rgb) (s : State) : (render v s).indicator = s.indicator := emit_indicator _ s

@[simp] theorem render_time (v : Rgb) (s : State) : (render v s).time = s.time := emit_time _ s

@[simp] theorem render_updated (v : Rgb) (s : State) : (render v s).updated = s.updated := emit_updated _ s

@[simp] theorem render_seq (v : Rgb) (s : State) : (render v s).seq = s.seq := emit_seq _ s

@[simp] theorem render_respLen (v : Rgb) (s : State) : (render v s).respLen = s.respLen := emit_respLen _ s

@[simp] theorem render_afterRender (v : Rgb) (s : State) : (render v s).afterRender = s.afterRender := emit_afterRender _ s

@[simp] theorem render_responses (v : Rgb) (s : State) : (render v s).responses = s.responses := emit_responses _ s

@[simp] theorem render_inputs (v : Rgb) (s : State) : (render v s).inputs = s.inputs := emit_inputs _ s

@[simp] theorem render_grain (v : Rgb) (s : State) : (render v s).phased = s.phased := emit_grain _ s

@[simp] theorem render_frames (v : Rgb) (s : State) : (render v s).frames = s.frames ++ [frameOf v] := emit_frames _ s

/-- `emit f` sends exactly the frame `f`. -/
theorem emit_sent (f : Frame) (s : State) : Sent f s (emit f s) := by
  refine ⟨emit_frames f s, fun h => ?_, fun h => ?_⟩
  · rw [emit_whole h]; exact ⟨rfl, rfl, rfl, rfl, rfl⟩
  · rw [emit_phased h]; exact ⟨rfl, rfl, rfl, rfl, rfl⟩

theorem render_sent (v : Rgb) (s : State) : Sent (frameOf v) s (render v s) := emit_sent _ s

theorem render_outside (v : Rgb) (s : State) : OutsideKept s (render v s) :=
  ⟨by simp, by simp, by simp, by simp, by simp, by simp, by simp⟩

/-! ### The rest of a transaction after its `RENDER`: `tgt`, `indicator`, nothing else -/

@[simp] theorem runAfterRender_cur (k : AfterRender) (s : State) : (runAfterRender k s).cur = s.cur := by
  cases k <;> rfl

@[simp] theorem runAfterRender_rate (k : AfterRender) (s : State) : (runAfterRender k s).rate = s.rate := by
  cases k <;> rfl

@[simp] theorem runAfterRender_duty (k : AfterRender) (s : State) : (runAfterRender k s).duty = s.duty := by
  cases k <;> rfl

@[simp] theorem runAfterRender_period (k : AfterRender) (s : State) : (runAfterRender k s).period = s.period := by
  cases k <;> rfl

@[simp] theorem runAfterRender_status (k : AfterRender) (s : State) : (runAfterRender k s).status = s.status := by
  cases k <;> rfl

@[simp] theorem runAfterRender_time (k : AfterRender) (s : State) : (runAfterRender k s).time = s.time := by
  cases k <;> rfl

@[simp] theorem runAfterRender_updated (k : AfterRender) (s : State) : (runAfterRender k s).updated = s.updated := by
  cases k <;> rfl

@[simp] theorem runAfterRender_irqMask (k : AfterRender) (s : State) : (runAfterRender k s).irqMask = s.irqMask := by
  cases k <;> rfl

@[simp] theorem runAfterRender_ledDout (k : AfterRender) (s : State) : (runAfterRender k s).ledDout = s.ledDout := by
  cases k <;> rfl

@[simp] theorem runAfterRender_seq (k : AfterRender) (s : State) : (runAfterRender k s).seq = s.seq := by
  cases k <;> rfl

@[simp] theorem runAfterRender_serState (k : AfterRender) (s : State) : (runAfterRender k s).serState = s.serState := by
  cases k <;> rfl

@[simp] theorem runAfterRender_bitcnt (k : AfterRender) (s : State) : (runAfterRender k s).bitcnt = s.bitcnt := by
  cases k <;> rfl

@[simp] theorem runAfterRender_shreg (k : AfterRender) (s : State) : (runAfterRender k s).shreg = s.shreg := by
  cases k <;> rfl

@[simp] theorem runAfterRender_respLen (k : AfterRender) (s : State) : (runAfterRender k s).respLen = s.respLen := by
  cases k <;> rfl

@[simp] theorem runAfterRender_frames (k : AfterRender) (s : State) : (runAfterRender k s).frames = s.frames := by
  cases k <;> rfl

@[simp] theorem runAfterRender_responses (k : AfterRender) (s : State) : (runAfterRender k s).responses = s.responses := by
  cases k <;> rfl

@[simp] theorem runAfterRender_inputs (k : AfterRender) (s : State) : (runAfterRender k s).inputs = s.inputs := by
  cases k <;> rfl

@[simp] theorem runAfterRender_phased (k : AfterRender) (s : State) : (runAfterRender k s).phased = s.phased := by
  cases k <;> rfl

@[simp] theorem runAfterRender_afterRender (k : AfterRender) (s : State) : (runAfterRender k s).afterRender = s.afterRender := by
  cases k <;> rfl

@[simp] theorem renderReturns_cur (s : State) : (renderReturns s).cur = s.cur := by simp [renderReturns]

@[simp] theorem renderReturns_rate (s : State) : (renderReturns s).rate = s.rate := by simp [renderReturns]

@[simp] theorem renderReturns_duty (s : State) : (renderReturns s).duty = s.duty := by simp [renderReturns]

@[simp] theorem renderReturns_period (s : State) : (renderReturns s).period = s.period := by simp [renderReturns]

@[simp] theorem renderReturns_status (s : State) : (renderReturns s).status = s.status := by simp [renderReturns]

@[simp] theorem renderReturns_time (s : State) : (renderReturns s).time = s.time := by simp [renderReturns]

@[simp] theorem renderReturns_updated (s : State) : (renderReturns s).updated = s.updated := by simp [renderReturns]

@[simp] theorem renderReturns_irqMask (s : State) : (renderReturns s).irqMask = s.irqMask := by simp [renderReturns]

@[simp] theorem renderReturns_ledDout (s : State) : (renderReturns s).ledDout = s.ledDout := by simp [renderReturns]

@[simp] theorem renderReturns_seq (s : State) : (renderReturns s).seq = s.seq := by simp [renderReturns]

@[simp] theorem renderReturns_serState (s : State) : (renderReturns s).serState = s.serState := by simp [renderReturns]

@[simp] theorem renderReturns_bitcnt (s : State) : (renderReturns s).bitcnt = s.bitcnt := by simp [renderReturns]

@[simp] theorem renderReturns_shreg (s : State) : (renderReturns s).shreg = s.shreg := by simp [renderReturns]

@[simp] theorem renderReturns_respLen (s : State) : (renderReturns s).respLen = s.respLen := by simp [renderReturns]

@[simp] theorem renderReturns_frames (s : State) : (renderReturns s).frames = s.frames := by simp [renderReturns]

@[simp] theorem renderReturns_responses (s : State) : (renderReturns s).responses = s.responses := by simp [renderReturns]

@[simp] theorem renderReturns_inputs (s : State) : (renderReturns s).inputs = s.inputs := by simp [renderReturns]

@[simp] theorem renderReturns_phased (s : State) : (renderReturns s).phased = s.phased := by simp [renderReturns]

@[simp] theorem renderReturns_afterRender (s : State) : (renderReturns s).afterRender = .nothing := by simp [renderReturns]

/-- Nothing waits, nothing happens. -/
theorem renderReturns_nothing {s : State} (h : s.afterRender = .nothing) : renderReturns s = s := by
  unfold renderReturns
  rw [h]
  simp [runAfterRender, ← h]

/-! ### `RENDER` with what follows it -/

theorem renderThen_whole {v : Rgb} {k : AfterRender} {s : State} (h : s.phased = false) :
    renderThen v k s = runAfterRender k (render v s) := by
  simp [renderThen, h]

theorem renderThen_phased {v : Rgb} {k : AfterRender} {s : State} (h : s.phased = true) :
    renderThen v k s = { render v s with afterRender := k } := by
  simp [renderThen, h]

@[simp] theorem renderThen_cur (v : Rgb) (k : AfterRender) (s : State) : (renderThen v k s).cur = s.cur := by
  cases h : s.phased <;> simp [renderThen, h]

@[simp] theorem renderThen_rate (v : Rgb) (k : AfterRender) (s : State) : (renderThen v k s).rate = s.rate := by
  cases h : s.phased <;> simp [renderThen, h]

@[simp] theorem renderThen_duty (v : Rgb) (k : AfterRender) (s : State) : (renderThen v k s).duty = s.duty := by
  cases h : s.phased <;> simp [renderThen, h]

@[simp] theorem renderThen_period (v : Rgb) (k : AfterRender) (s : State) : (renderThen v k s).period = s.period := by
  cases h : s.phased <;> simp [renderThen, h]

@[simp] theorem renderThen_status (v : Rgb) (k : AfterRender) (s : State) : (renderThen v k s).status = s.status := by
  cases h : s.phased <;> simp [renderThen, h]

@[simp] theorem renderThen_time (v : Rgb) (k : AfterRender) (s : State) : (renderThen v k s).time = s.time := by
  cases h : s.phased <;> simp [renderThen, h]

@[simp] theorem renderThen_updated (v : Rgb) (k : AfterRender) (s : State) : (renderThen v k s).updated = s.updated := by
  cases h : s.phased <;> simp [renderThen, h]

@[simp] theorem renderThen_seq (v : Rgb) (k : AfterRender) (s : State) : (renderThen v k s).seq = s.seq := by
  cases h : s.phased <;> simp [renderThen, h]

@[simp] theorem renderThen_respLen (v : Rgb) (k : AfterRender) (s : State) : (renderThen v k s).respLen = s.respLen := by
  cases h : s.phased <;> simp [renderThen, h]

@[simp] theorem renderThen_responses (v : Rgb) (k : AfterRender) (s : State) : (renderThen v k s).responses = s.responses := by
  cases h : s.phased <;> simp [renderThen, h]

@[simp] theorem renderThen_inputs (v : Rgb) (k : AfterRender) (s : State) : (renderThen v k s).inputs = s.inputs := by
  cases h : s.phased <;> simp [renderThen, h]

@[simp] theorem renderThen_grain (v : Rgb) (k : AfterRender) (s : State) : (renderThen v k s).phased = s.phased := by
  cases h : s.phased <;> simp [renderThen, h]

@[simp] theorem renderThen_frames (v : Rgb) (k : AfterRender) (s : State) :
    (renderThen v k s).frames = s.frames ++ [frameOf v] := by
  cases h : s.phased <;> simp [renderThen, h]

theorem renderThen_awaits (v : Rgb) (k : AfterRender) (s : State) : Awaits k s (renderThen v k s) := by
  cases h : s.phased <;> simp [Awaits, renderThen, h]

/-- `RENDER` with what follows it sends exactly the frame of its colour. -/
theorem renderThen_sent (v : Rgb) (k : AfterRender) (s : State) : Sent (frameOf v) s (renderThen v k s) := by
  obtain ⟨h1, h2, h3⟩ := render_sent v s
  refine ⟨renderThen_frames v k s, fun h => ?_, fun h => ?_⟩
  · rw [renderThen_whole h]
    obtain ⟨a, b, c, d, e⟩ := h2 h
    exact ⟨by simpa using a, by simpa using b, by simpa using c, by simpa using d, by simpa using e⟩
  · rw [renderThen_phased h]
    obtain ⟨a, b, c, d, e⟩ := h3 h
    exact ⟨a, b, c, d, e⟩

/-- The black frame is 0x000000 under every admissible table (spec/43_led_serializer.md rule R195). -/
@[simp] theorem frameOf_black : frameOf Rgb.black = 0x000000#24 := by
  have h : gammaIndex 0#16 = 0#9 := by decide
  simp [frameOf, frameUnder, Rgb.black, h]

end Sys2Proof.Machine
end

