-- ==== Sys2Proof/Laws/Sequencer.lean ====
section
/-! SUPPORT. The step function as equations, one per kind of input; what the shared operations of the sequencer and the engine keep;
and runs. -/

namespace Sys2Proof.Machine

/-! ### The step, input by input, for every integrity function (spec/30_encoding.md rule R98) -/

theorem cmdReady_iff {s : State} : s.cmdReady = true ↔ s.seq = .idle := by simp [State.cmdReady]

/-- The machine is the block whose integrity function is CRC-16/USB. -/
theorem step_eq (s : State) : step s = stepWith integrity16 s := rfl

section

variable {integrity : List Byte → Word16} {s t : State} {bytes : List Byte} {rest : List Input}

theorem stepWith_tickEv (h : s.inputs = .tickEv :: rest) :
    stepWith integrity s = .next (tickInterrupt { s with inputs := rest }) := by simp [stepWith, h]

theorem stepWith_phaseEnd (h : s.inputs = .phaseEnd :: rest) :
    stepWith integrity s = .next (advancePhase { s with inputs := rest }) := by simp [stepWith, h]

theorem stepWith_packet_idle (h : s.inputs = .packet bytes :: rest) (hs : s.seq = .idle) :
    stepWith integrity s = runCommandWith integrity bytes { s with inputs := rest } := by
  simp [stepWith, h, State.cmdReady, hs]

theorem stepWith_poll_idle (h : s.inputs = .poll :: rest) (hs : s.seq = .idle) :
    stepWith integrity s = .next (runPoll { s with inputs := rest }) := by simp [stepWith, h, State.cmdReady, hs]

theorem stepWith_pollTick_idle (h : s.inputs = .pollTick :: rest) (hs : s.seq = .idle) :
    stepWith integrity s = .next (runPollTick { s with inputs := rest }) := by simp [stepWith, h, State.cmdReady, hs]

theorem stepWith_nil_idle (h : s.inputs = []) (hs : s.seq = .idle) : stepWith integrity s = .next (runPoll s) := by
  simp [stepWith, h, State.cmdReady, hs]

/-- With a transaction open, a packet, a poll and an empty list of inputs all let the serializer go on. -/
theorem stepWith_busy (hs : s.seq ≠ .idle)
    (h : s.inputs = [] ∨ ∃ x rest, s.inputs = x :: rest ∧ (x = .poll ∨ x = .pollTick ∨ ∃ bytes, x = .packet bytes)) :
    stepWith integrity s = .next (advancePhase s) := by
  rcases h with h | ⟨x, rest, h, rfl | rfl | ⟨bytes, rfl⟩⟩ <;> simp [stepWith, h, State.cmdReady, hs]

theorem step_tickEv (h : s.inputs = .tickEv :: rest) : step s = .next (tickInterrupt { s with inputs := rest }) :=
  stepWith_tickEv h

theorem step_phaseEnd (h : s.inputs = .phaseEnd :: rest) : step s = .next (advancePhase { s with inputs := rest }) :=
  stepWith_phaseEnd h

theorem step_packet_idle (h : s.inputs = .packet bytes :: rest) (hs : s.seq = .idle) :
    step s = runCommandWith integrity16 bytes { s with inputs := rest } := stepWith_packet_idle h hs

theorem step_poll_idle (h : s.inputs = .poll :: rest) (hs : s.seq = .idle) :
    step s = .next (runPoll { s with inputs := rest }) := stepWith_poll_idle h hs

theorem step_pollTick_idle (h : s.inputs = .pollTick :: rest) (hs : s.seq = .idle) :
    step s = .next (runPollTick { s with inputs := rest }) := stepWith_pollTick_idle h hs

theorem step_nil_idle (h : s.inputs = []) (hs : s.seq = .idle) : step s = .next (runPoll s) := stepWith_nil_idle h hs

theorem step_busy (hs : s.seq ≠ .idle)
    (h : s.inputs = [] ∨ ∃ x rest, s.inputs = x :: rest ∧ (x = .poll ∨ x = .pollTick ∨ ∃ bytes, x = .packet bytes)) :
    step s = .next (advancePhase s) := stepWith_busy hs h

/-- Everything a step that goes on can be: the inversion lemma of the step. -/
theorem stepWith_cases (h : stepWith integrity s = .next t) :
    (∃ rest, s.inputs = .tickEv :: rest ∧ t = tickInterrupt { s with inputs := rest }) ∨
    (∃ rest, s.inputs = .phaseEnd :: rest ∧ t = advancePhase { s with inputs := rest }) ∨
    (∃ rest, s.inputs = .busReset :: rest ∧ t = { s with inputs := rest }) ∨
    (∃ rest, s.inputs = .powerOn :: rest ∧ t = powerOn { s with inputs := rest }) ∨
    (s.seq ≠ .idle ∧ (s.inputs = [] ∨ ∃ x rest, s.inputs = x :: rest ∧
      (x = .poll ∨ x = .pollTick ∨ ∃ bytes, x = .packet bytes)) ∧ t = advancePhase s) ∨
    (s.seq = .idle ∧ ∃ bytes rest, s.inputs = .packet bytes :: rest ∧
      runCommandWith integrity bytes { s with inputs := rest } = .next t) ∨
    (s.seq = .idle ∧ ∃ rest, (s.inputs = .poll :: rest ∨ s.inputs = [] ∧ rest = []) ∧
      t = runPoll { s with inputs := rest }) ∨
    (s.seq = .idle ∧ ∃ rest, s.inputs = .pollTick :: rest ∧ t = runPollTick { s with inputs := rest }) := by
  by_cases hs : s.seq = .idle
  · match hi : s.inputs with
    | [] =>
      rw [stepWith_nil_idle hi hs] at h
      injection h with h
      exact .inr (.inr (.inr (.inr (.inr (.inr (.inl ⟨hs, [], .inr ⟨rfl, rfl⟩, by rw [← h, ← hi]⟩))))))
    | .tickEv :: rest => simp_all [stepWith]
    | .phaseEnd :: rest => simp_all [stepWith]
    | .busReset :: rest => simp_all [stepWith]
    | .powerOn :: rest => simp_all [stepWith]
    | .packet bytes :: rest =>
      rw [stepWith_packet_idle hi hs] at h
      exact .inr (.inr (.inr (.inr (.inr (.inl ⟨hs, bytes, rest, rfl, h⟩)))))
    | .poll :: rest =>
      rw [stepWith_poll_idle hi hs] at h
      injection h with h
      exact .inr (.inr (.inr (.inr (.inr (.inr (.inl ⟨hs, rest, .inl rfl, h.symm⟩))))))
    | .pollTick :: rest =>
      rw [stepWith_pollTick_idle hi hs] at h
      injection h with h
      exact .inr (.inr (.inr (.inr (.inr (.inr (.inr ⟨hs, rest, rfl, h.symm⟩))))))
  · simp only [stepWith, State.cmdReady] at h
    split at h <;> simp_all

end

/-! ### The command transaction -/

/-- Every command completes. -/
theorem exec_next (i : Instr) (s : State) : ∃ t, exec i s = .next t := by cases i <;> exact ⟨_, rfl⟩

section

variable {integrity : List Byte → Word16} {bytes : List Byte} {s t : State}

/-- Everything a command transaction that goes on can be. -/
theorem runCommandWith_cases (h : runCommandWith integrity bytes s = .next t) :
    (∃ i u, decodeWith integrity bytes = .command i ∧ exec i { s with seq := .cmd } = .next u ∧ t = endTransaction u) ∨
    ((decodeWith integrity bytes = .dropped ∨ ∃ op, decodeWith integrity bytes = .unrecognized op) ∧
      t = endTransaction { s with seq := .cmd }) := by
  unfold runCommandWith at h
  split at h
  · cases h
  · exact .inr ⟨.inl ‹_›, by cases h; rfl⟩
  · exact .inr ⟨.inr ⟨_, ‹_›⟩, by cases h; rfl⟩
  · rename_i i hd
    obtain ⟨u, hu⟩ := exec_next i { s with seq := .cmd }
    rw [hu] at h
    exact .inl ⟨i, u, hd, hu, by cases h; rfl⟩

theorem runCommandWith_command {i : Instr} (hd : decodeWith integrity bytes = .command i)
    (he : exec i { s with seq := .cmd } = .next t) : runCommandWith integrity bytes s = .next (endTransaction t) := by
  simp only [runCommandWith, hd, he]

theorem runCommandWith_dropped (hd : decodeWith integrity bytes = .dropped) :
    runCommandWith integrity bytes s = .next (endTransaction { s with seq := .cmd }) := by
  simp only [runCommandWith, hd]

theorem runCommandWith_unrecognized {op : Byte} (hd : decodeWith integrity bytes = .unrecognized op) :
    runCommandWith integrity bytes s = .next (endTransaction { s with seq := .cmd }) := by
  simp only [runCommandWith, hd]

/-- A packet decodes to `wrongLength` exactly when it has not 10 bytes. -/
theorem decodeWith_wrongLength {n : Nat} (h : decodeWith integrity bytes = .wrongLength n) :
    n = bytes.length ∧ bytes.length ≠ 10 := by
  unfold decodeWith at h
  split at h
  · rename_i hp
    refine ⟨by cases h; rfl, fun h10 => ?_⟩
    match bytes, h10 with
    | [_, _, _, _, _, _, _, _, _, _], _ => cases hp
  · split at h
    · unfold dispatchOpcode at h
      split at h <;> cases h
    · cases h

/-- A command transaction goes on for every packet of 10 bytes. -/
theorem runCommandWith_next (h : bytes.length = 10) : ∃ t, runCommandWith integrity bytes s = .next t := by
  unfold runCommandWith
  split
  · exact absurd h (decodeWith_wrongLength ‹_›).2
  · exact ⟨_, rfl⟩
  · exact ⟨_, rfl⟩
  · rename_i i _
    obtain ⟨u, hu⟩ := exec_next i { s with seq := .cmd }
    exact ⟨_, by rw [hu]⟩

end

/-! ### What `endTransaction` changes: `seq`, `resp_len`, the answers, and what follows a `RENDER` -/

@[simp] theorem closeTransaction_cur (s : State) : (closeTransaction s).cur = s.cur := by
  unfold closeTransaction; split <;> rfl

@[simp] theorem closeTransaction_tgt (s : State) : (closeTransaction s).tgt = s.tgt := by
  unfold closeTransaction; split <;> rfl

@[simp] theorem closeTransaction_rate (s : State) : (closeTransaction s).rate = s.rate := by
  unfold closeTransaction; split <;> rfl

@[simp] theorem closeTransaction_duty (s : State) : (closeTransaction s).duty = s.duty := by
  unfold closeTransaction; split <;> rfl

@[simp] theorem closeTransaction_period (s : State) : (closeTransaction s).period = s.period := by
  unfold closeTransaction; split <;> rfl

@[simp] theorem closeTransaction_status (s : State) : (closeTransaction s).status = s.status := by
  unfold closeTransaction; split <;> rfl

@[simp] theorem closeTransaction_indicator (s : State) : (closeTransaction s).indicator = s.indicator := by
  unfold closeTransaction; split <;> rfl

@[simp] theorem closeTransaction_time (s : State) : (closeTransaction s).time = s.time := by
  unfold closeTransaction; split <;> rfl

@[simp] theorem closeTransaction_updated (s : State) : (closeTransaction s).updated = s.updated := by
  unfold closeTransaction; split <;> rfl

@[simp] theorem closeTransaction_irqMask (s : State) : (closeTransaction s).irqMask = s.irqMask := by
  unfold closeTransaction; split <;> rfl

@[simp] theorem closeTransaction_ledDout (s : State) : (closeTransaction s).ledDout = s.ledDout := by
  unfold closeTransaction; split <;> rfl

@[simp] theorem closeTransaction_serState (s : State) : (closeTransaction s).serState = s.serState := by
  unfold closeTransaction; split <;> rfl

@[simp] theorem closeTransaction_bitcnt (s : State) : (closeTransaction s).bitcnt = s.bitcnt := by
  unfold closeTransaction; split <;> rfl

@[simp] theorem closeTransaction_shreg (s : State) : (closeTransaction s).shreg = s.shreg := by
  unfold closeTransaction; split <;> rfl

@[simp] theorem closeTransaction_afterRender (s : State) : (closeTransaction s).afterRender = s.afterRender := by
  unfold closeTransaction; split <;> rfl

@[simp] theorem closeTransaction_frames (s : State) : (closeTransaction s).frames = s.frames := by
  unfold closeTransaction; split <;> rfl

@[simp] theorem closeTransaction_inputs (s : State) : (closeTransaction s).inputs = s.inputs := by
  unfold closeTransaction; split <;> rfl

@[simp] theorem closeTransaction_phased (s : State) : (closeTransaction s).phased = s.phased := by
  unfold closeTransaction; split <;> rfl

@[simp] theorem endTransaction_cur (s : State) : (endTransaction s).cur = s.cur := by
  unfold endTransaction; split <;> simp

@[simp] theorem endTransaction_rate (s : State) : (endTransaction s).rate = s.rate := by
  unfold endTransaction; split <;> simp

@[simp] theorem endTransaction_duty (s : State) : (endTransaction s).duty = s.duty := by
  unfold endTransaction; split <;> simp

@[simp] theorem endTransaction_period (s : State) : (endTransaction s).period = s.period := by
  unfold endTransaction; split <;> simp

@[simp] theorem endTransaction_status (s : State) : (endTransaction s).status = s.status := by
  unfold endTransaction; split <;> simp

@[simp] theorem endTransaction_time (s : State) : (endTransaction s).time = s.time := by
  unfold endTransaction; split <;> simp

@[simp] theorem endTransaction_updated (s : State) : (endTransaction s).updated = s.updated := by
  unfold endTransaction; split <;> simp

@[simp] theorem endTransaction_irqMask (s : State) : (endTransaction s).irqMask = s.irqMask := by
  unfold endTransaction; split <;> simp

@[simp] theorem endTransaction_ledDout (s : State) : (endTransaction s).ledDout = s.ledDout := by
  unfold endTransaction; split <;> simp

@[simp] theorem endTransaction_serState (s : State) : (endTransaction s).serState = s.serState := by
  unfold endTransaction; split <;> simp

@[simp] theorem endTransaction_bitcnt (s : State) : (endTransaction s).bitcnt = s.bitcnt := by
  unfold endTransaction; split <;> simp

@[simp] theorem endTransaction_shreg (s : State) : (endTransaction s).shreg = s.shreg := by
  unfold endTransaction; split <;> simp

@[simp] theorem endTransaction_frames (s : State) : (endTransaction s).frames = s.frames := by
  unfold endTransaction; split <;> simp

@[simp] theorem endTransaction_inputs (s : State) : (endTransaction s).inputs = s.inputs := by
  unfold endTransaction; split <;> simp

@[simp] theorem endTransaction_phased (s : State) : (endTransaction s).phased = s.phased := by
  unfold endTransaction; split <;> simp

/-! ### What a tick leaves -/

@[simp] theorem tickInterrupt_cur (s : State) : (tickInterrupt s).cur = s.cur := by unfold tickInterrupt; split <;> rfl

@[simp] theorem tickInterrupt_tgt (s : State) : (tickInterrupt s).tgt = s.tgt := by unfold tickInterrupt; split <;> rfl

@[simp] theorem tickInterrupt_rate (s : State) : (tickInterrupt s).rate = s.rate := by unfold tickInterrupt; split <;> rfl

@[simp] theorem tickInterrupt_duty (s : State) : (tickInterrupt s).duty = s.duty := by unfold tickInterrupt; split <;> rfl

@[simp] theorem tickInterrupt_period (s : State) : (tickInterrupt s).period = s.period := by unfold tickInterrupt; split <;> rfl

@[simp] theorem tickInterrupt_status (s : State) : (tickInterrupt s).status = s.status := by unfold tickInterrupt; split <;> rfl

@[simp] theorem tickInterrupt_indicator (s : State) : (tickInterrupt s).indicator = s.indicator := by unfold tickInterrupt; split <;> rfl

@[simp] theorem tickInterrupt_irqMask (s : State) : (tickInterrupt s).irqMask = s.irqMask := by unfold tickInterrupt; split <;> rfl

@[simp] theorem tickInterrupt_ledDout (s : State) : (tickInterrupt s).ledDout = s.ledDout := by unfold tickInterrupt; split <;> rfl

@[simp] theorem tickInterrupt_serState (s : State) : (tickInterrupt s).serState = s.serState := by unfold tickInterrupt; split <;> rfl

@[simp] theorem tickInterrupt_bitcnt (s : State) : (tickInterrupt s).bitcnt = s.bitcnt := by unfold tickInterrupt; split <;> rfl

@[simp] theorem tickInterrupt_shreg (s : State) : (tickInterrupt s).shreg = s.shreg := by unfold tickInterrupt; split <;> rfl

@[simp] theorem tickInterrupt_frames (s : State) : (tickInterrupt s).frames = s.frames := by unfold tickInterrupt; split <;> rfl

@[simp] theorem tickInterrupt_inputs (s : State) : (tickInterrupt s).inputs = s.inputs := by unfold tickInterrupt; split <;> rfl

@[simp] theorem tickInterrupt_phased (s : State) : (tickInterrupt s).phased = s.phased := by unfold tickInterrupt; split <;> rfl

@[simp] theorem tickInterrupt_seq (s : State) : (tickInterrupt s).seq = s.seq := by unfold tickInterrupt; split <;> rfl

@[simp] theorem tickInterrupt_respLen (s : State) : (tickInterrupt s).respLen = s.respLen := by unfold tickInterrupt; split <;> rfl

@[simp] theorem tickInterrupt_afterRender (s : State) : (tickInterrupt s).afterRender = s.afterRender := by
  unfold tickInterrupt; split <;> rfl

@[simp] theorem tickInterrupt_responses (s : State) : (tickInterrupt s).responses = s.responses := by unfold tickInterrupt; split <;> rfl

/-! ### What a phase leaves -/

@[simp] theorem serAdvance_cur (s : State) : (serAdvance s).cur = s.cur := by
  unfold serAdvance; split <;> (try split) <;> (try split) <;> rfl

@[simp] theorem serAdvance_tgt (s : State) : (serAdvance s).tgt = s.tgt := by
  unfold serAdvance; split <;> (try split) <;> (try split) <;> rfl

@[simp] theorem serAdvance_rate (s : State) : (serAdvance s).rate = s.rate := by
  unfold serAdvance; split <;> (try split) <;> (try split) <;> rfl

@[simp] theorem serAdvance_duty (s : State) : (serAdvance s).duty = s.duty := by
  unfold serAdvance; split <;> (try split) <;> (try split) <;> rfl

@[simp] theorem serAdvance_period (s : State) : (serAdvance s).period = s.period := by
  unfold serAdvance; split <;> (try split) <;> (try split) <;> rfl

@[simp] theorem serAdvance_status (s : State) : (serAdvance s).status = s.status := by
  unfold serAdvance; split <;> (try split) <;> (try split) <;> rfl

@[simp] theorem serAdvance_indicator (s : State) : (serAdvance s).indicator = s.indicator := by
  unfold serAdvance; split <;> (try split) <;> (try split) <;> rfl

@[simp] theorem serAdvance_time (s : State) : (serAdvance s).time = s.time := by
  unfold serAdvance; split <;> (try split) <;> (try split) <;> rfl

@[simp] theorem serAdvance_updated (s : State) : (serAdvance s).updated = s.updated := by
  unfold serAdvance; split <;> (try split) <;> (try split) <;> rfl

@[simp] theorem serAdvance_seq (s : State) : (serAdvance s).seq = s.seq := by
  unfold serAdvance; split <;> (try split) <;> (try split) <;> rfl

@[simp] theorem serAdvance_respLen (s : State) : (serAdvance s).respLen = s.respLen := by
  unfold serAdvance; split <;> (try split) <;> (try split) <;> rfl

@[simp] theorem serAdvance_afterRender (s : State) : (serAdvance s).afterRender = s.afterRender := by
  unfold serAdvance; split <;> (try split) <;> (try split) <;> rfl

@[simp] theorem serAdvance_responses (s : State) : (serAdvance s).responses = s.responses := by
  unfold serAdvance; split <;> (try split) <;> (try split) <;> rfl

@[simp] theorem serAdvance_frames (s : State) : (serAdvance s).frames = s.frames := by
  unfold serAdvance; split <;> (try split) <;> (try split) <;> rfl

@[simp] theorem serAdvance_inputs (s : State) : (serAdvance s).inputs = s.inputs := by
  unfold serAdvance; split <;> (try split) <;> (try split) <;> rfl

@[simp] theorem serAdvance_phased (s : State) : (serAdvance s).phased = s.phased := by
  unfold serAdvance; split <;> (try split) <;> (try split) <;> rfl

@[simp] theorem closeTransaction_seq (s : State) : (closeTransaction s).seq = .idle := by
  unfold closeTransaction; split <;> simp_all

/-- A transaction whose serializer is not idle stays open. -/
theorem endTransaction_open {s : State} (h : s.serState ≠ .idle) : endTransaction s = s := by
  unfold endTransaction
  split <;> simp_all

/-- A transaction whose serializer is idle is over. -/
theorem endTransaction_idle {s : State} (h : s.serState = .idle) : endTransaction s = closeTransaction (renderReturns s) := by
  simp [endTransaction, h]

/-- A transaction that ends leaves the sequencer idle. -/
theorem endTransaction_seq_idle {s : State} (h : s.serState = .idle) : (endTransaction s).seq = .idle := by
  rw [endTransaction_idle h, closeTransaction_seq]

/-- The end of a transaction with nothing left to do after a `RENDER`. -/
theorem endTransaction_nothing {s : State} (h : s.serState = .idle) (hk : s.afterRender = .nothing) :
    endTransaction s = closeTransaction s := by
  rw [endTransaction_idle h, renderReturns_nothing hk]

/-- The end of a command transaction, whole. -/
theorem endTransaction_cmd {s : State} (h : s.serState = .idle) (hk : s.afterRender = .nothing) (hs : s.seq = .cmd) :
    endTransaction s = { s with seq := .idle, respLen := 0#8, responses := s.responses ++ [0#8] } := by
  simp [endTransaction_nothing h hk, closeTransaction, hs]

/-- The end of a poll, whole. -/
theorem endTransaction_poll {s : State} (h : s.serState = .idle) (hk : s.afterRender = .nothing) (hs : s.seq = .poll) :
    endTransaction s = { s with seq := .idle } := by
  simp [endTransaction_nothing h hk, closeTransaction, hs]

/-- A state that is at rest stays as it is. -/
theorem endTransaction_rest {s : State} (h : s.serState = .idle) (hk : s.afterRender = .nothing) (hs : s.seq = .idle) :
    endTransaction s = s := by
  simp [endTransaction_nothing h hk, closeTransaction, hs]

/-! ### The engine -/

/-- Whether an engine pass sends a frame (spec/42_fade_blink_engine.md rule R177). -/
def engineSends (t : Time) (s : State) : Bool := changedFlag s.cur s.tgt || (blinkOverlay s.duty s.period t).refresh

/-- The colour it sends. -/
def engineColour (t : Time) (s : State) : Rgb :=
  if (blinkOverlay s.duty s.period t).black then Rgb.black else fadeRgb s.rate s.cur s.tgt

theorem engine_sends {t : Time} {s : State} (h : engineSends t s = true) :
    engine t s = renderThen (engineColour t s) (.heartbeat t) (fadeStep s) := by
  unfold engineSends at h
  unfold engine engineRender engineColour
  rw [if_pos h]
  split <;> rfl

theorem engine_silent {t : Time} {s : State} (h : engineSends t s = false) : engine t s = heartbeat t (fadeStep s) := by
  unfold engineSends at h
  unfold engine engineRender
  rw [if_neg (by simp [h])]
  rfl

@[simp] theorem engine_cur (t : Time) (s : State) : (engine t s).cur = fadeRgb s.rate s.cur s.tgt := by
  cases h : engineSends t s
  · simp [engine_silent h]
  · simp [engine_sends h]

@[simp] theorem engine_tgt (t : Time) (s : State) : (engine t s).tgt = s.tgt := by
  cases h : engineSends t s
  · simp [engine_silent h]
  · cases hp : s.phased
    · rw [engine_sends h, renderThen_whole (s := fadeStep s) hp]
      simp [runAfterRender]
    · rw [engine_sends h, renderThen_phased (s := fadeStep s) hp]
      simp

@[simp] theorem engine_rate (t : Time) (s : State) : (engine t s).rate = s.rate := by
  cases h : engineSends t s
  · simp [engine_silent h]
  · simp [engine_sends h]

@[simp] theorem engine_duty (t : Time) (s : State) : (engine t s).duty = s.duty := by
  cases h : engineSends t s
  · simp [engine_silent h]
  · simp [engine_sends h]

@[simp] theorem engine_period (t : Time) (s : State) : (engine t s).period = s.period := by
  cases h : engineSends t s
  · simp [engine_silent h]
  · simp [engine_sends h]

@[simp] theorem engine_status (t : Time) (s : State) : (engine t s).status = s.status := by
  cases h : engineSends t s
  · simp [engine_silent h]
  · simp [engine_sends h]

@[simp] theorem engine_time (t : Time) (s : State) : (engine t s).time = s.time := by
  cases h : engineSends t s
  · simp [engine_silent h]
  · simp [engine_sends h]

@[simp] theorem engine_updated (t : Time) (s : State) : (engine t s).updated = s.updated := by
  cases h : engineSends t s
  · simp [engine_silent h]
  · simp [engine_sends h]

@[simp] theorem engine_seq (t : Time) (s : State) : (engine t s).seq = s.seq := by
  cases h : engineSends t s
  · simp [engine_silent h]
  · simp [engine_sends h]

@[simp] theorem engine_respLen (t : Time) (s : State) : (engine t s).respLen = s.respLen := by
  cases h : engineSends t s
  · simp [engine_silent h]
  · simp [engine_sends h]

@[simp] theorem engine_responses (t : Time) (s : State) : (engine t s).responses = s.responses := by
  cases h : engineSends t s
  · simp [engine_silent h]
  · simp [engine_sends h]

@[simp] theorem engine_inputs (t : Time) (s : State) : (engine t s).inputs = s.inputs := by
  cases h : engineSends t s
  · simp [engine_silent h]
  · simp [engine_sends h]

@[simp] theorem engine_phased (t : Time) (s : State) : (engine t s).phased = s.phased := by
  cases h : engineSends t s
  · simp [engine_silent h]
  · simp [engine_sends h]

/-- The heartbeat of a pass that sends nothing, or that is stepped whole, is over at its end. -/
theorem engine_indicator {t : Time} {s : State} (h : engineSends t s = false ∨ s.phased = false) :
    (engine t s).indicator = heartbeatFlag t s.indicator ∧ (engine t s).afterRender = s.afterRender := by
  cases hs : engineSends t s
  · simp [engine_silent hs]
  · have hp : s.phased = false := by simpa [hs] using h
    rw [engine_sends hs, renderThen_whole (s := fadeStep s) hp]
    simp [runAfterRender]

/-- The heartbeat of a pass that sends a frame phase by phase waits for the `RENDER`. -/
theorem engine_indicator_waits {t : Time} {s : State} (h : engineSends t s = true) (hp : s.phased = true) :
    (engine t s).indicator = s.indicator ∧ (engine t s).afterRender = .heartbeat t := by
  rw [engine_sends h, renderThen_phased (s := fadeStep s) hp]
  simp

theorem engine_frames (t : Time) (s : State) :
    (engine t s).frames = s.frames ++ (if engineSends t s then [frameOf (engineColour t s)] else []) := by
  cases h : engineSends t s
  · simp [engine_silent h]
  · simp [engine_sends h]

/-- A poll that finds the flag set. -/
theorem runPoll_set {s : State} (h : s.updated = true) :
    runPoll s = endTransaction (engine s.time { s with seq := .poll, updated := false }) := by
  simp [runPoll, afterSnapshot, readAndClear, h]

/-- A poll that finds the flag clear. -/
theorem runPoll_clear {s : State} (h : s.updated = false) :
    runPoll s = endTransaction { s with seq := .poll, updated := false } := by
  simp [runPoll, afterSnapshot, readAndClear, h]

theorem runPollTick_set {s : State} (h : s.updated = true) :
    runPollTick s = endTransaction (engine s.time (tickInterrupt { s with seq := .poll, updated := false })) := by
  simp [runPollTick, afterSnapshot, readAndClear, readAndClearTick, h]

theorem runPollTick_clear {s : State} (h : s.updated = false) :
    runPollTick s = endTransaction (tickInterrupt { s with seq := .poll, updated := false }) := by
  simp [runPollTick, afterSnapshot, readAndClear, readAndClearTick, h]

@[simp] theorem fadeChannel_self (rate x : Word16) : fadeChannel rate x x = x := by simp [fadeChannel]

@[simp] theorem fadeRgb_self (rate : Word16) (v : Rgb) : fadeRgb rate v v = v := by simp [fadeRgb]

@[simp] theorem changedFlag_self (v : Rgb) : changedFlag v v = false := by simp [changedFlag]

theorem fadeRgb_get (rate : Word16) (cur tgt : Rgb) (c : Chan) :
    (fadeRgb rate cur tgt).get c = fadeChannel rate (cur.get c) (tgt.get c) := by cases c <;> rfl

/-! ### Runs -/

section

variable {integrity : List Byte → Word16} {s t u : State}

@[simp] theorem runStepsWith_zero (s : State) : runStepsWith integrity 0 s = .next s := rfl

theorem runStepsWith_next (h : stepWith integrity s = .next t) (n : Nat) :
    runStepsWith integrity (n + 1) s = runStepsWith integrity n t := by
  simp only [runStepsWith, h]

theorem runStepsWith_refused {r : Refusal} (h : stepWith integrity s = .refused r) (n : Nat) :
    runStepsWith integrity (n + 1) s = .refused r := by
  simp only [runStepsWith, h]

theorem runStepsWith_add {m : Nat} (h : runStepsWith integrity m s = .next t) (n : Nat) :
    runStepsWith integrity (m + n) s = runStepsWith integrity n t := by
  induction m generalizing s with
  | zero =>
    cases h
    rw [Nat.zero_add]
  | succ m ih =>
    match hs : stepWith integrity s with
    | .next u =>
      rw [runStepsWith_next hs] at h
      rw [Nat.succ_add, runStepsWith_next hs]
      exact ih h
    | .refused r =>
      rw [runStepsWith_refused hs] at h
      cases h

theorem runSteps_next (h : step s = .next t) (n : Nat) : runSteps (n + 1) s = runSteps n t := runStepsWith_next h n

theorem runSteps_one (h : step s = .next t) : runSteps 1 s = .next t := runStepsWith_next h 0

theorem runSteps_two (h : step s = .next t) (h' : step t = .next u) : runSteps 2 s = .next u :=
  (runSteps_next h 1).trans (runSteps_one h')

theorem runSteps_add {m : Nat} (h : runSteps m s = .next t) (n : Nat) : runSteps (m + n) s = runSteps n t :=
  runStepsWith_add h n

end

/-- `runSteps` is the host's run of the machine. -/
theorem runSteps_eq_run (n : Nat) (s : State) : runSteps n s = Host.Core.run Sys2Proof.core n s := by
  induction n generalizing s with
  | zero => rfl
  | succ n ih =>
    match hs : step s with
    | .next t =>
      have h' : Sys2Proof.core.step s = .next t := hs
      rw [runSteps_next hs, ih]
      simp only [Host.Core.run, h']
      rfl
    | .refused r =>
      have h' : Sys2Proof.core.step s = .refused r := hs
      rw [show runSteps (n + 1) s = .refused r from runStepsWith_refused hs n]
      simp only [Host.Core.run, h']
      rfl

end Sys2Proof.Machine
end

