-- ==== Sys2Proof/Laws/Engine.lean ====
section
/-! SUPPORT. The arithmetic of the engine in exact natural numbers, and what of a state the engine, a tick and the end of a transaction
do not look at. -/

namespace Sys2Proof.Machine

/-- One channel of the fade step in exact naturals (spec/42_fade_blink_engine.md rules R171, R172). -/
theorem fadeChannel_toNat (rate cur tgt : Word16) :
    (cur.toNat = tgt.toNat → (fadeChannel rate cur tgt).toNat = cur.toNat) ∧
    (cur.toNat < tgt.toNat →
      (fadeChannel rate cur tgt).toNat = cur.toNat + min (tgt.toNat - cur.toNat) rate.toNat) ∧
    (tgt.toNat < cur.toNat →
      (fadeChannel rate cur tgt).toNat = cur.toNat - min (cur.toNat - tgt.toNat) rate.toNat) := by
  have hc := cur.isLt
  have ht := tgt.isLt
  refine ⟨fun h => ?_, fun h => ?_, fun h => ?_⟩
  · have : cur = tgt := BitVec.eq_of_toNat_eq h
    simp [fadeChannel, this]
  · have hne : cur ≠ tgt := by rintro rfl; omega
    have hlt : cur < tgt := h
    have hs : (tgt - cur).toNat = tgt.toNat - cur.toNat := BitVec.toNat_sub_of_le (Nat.le_of_lt h)
    simp only [fadeChannel, hne, hlt, if_true, if_false, minWord, BitVec.le_def, hs]
    split <;> simp only [BitVec.toNat_add, hs] <;> omega
  · have hne : cur ≠ tgt := by rintro rfl; omega
    have hlt : ¬ cur < tgt := by rw [BitVec.lt_def]; omega
    have hs : (cur - tgt).toNat = cur.toNat - tgt.toNat := BitVec.toNat_sub_of_le (Nat.le_of_lt h)
    simp only [fadeChannel, hne, hlt, if_false, minWord, BitVec.le_def, hs]
    split <;> rw [BitVec.toNat_sub_of_le] <;> (try simp only [BitVec.le_def, hs]) <;> omega

/-- The remainder of `time` by a channel-width period, in exact naturals (spec/42_fade_blink_engine.md rule R175). -/
theorem time_umod_toNat (t : Time) (period : Word16) : (t % period.setWidth 32).toNat = t.toNat % period.toNat := by
  have := period.isLt
  rw [BitVec.toNat_umod, BitVec.toNat_setWidth, Nat.mod_eq_of_lt (a := period.toNat)]
  omega

/-- The heartbeat's remainder against a small number, in exact naturals (spec/42_fade_blink_engine.md rule R178). -/
theorem time_heartbeat_iff (t : Time) {k : Nat} (hk : k < 1000) :
    t % Config.heartbeatPeriod = BitVec.ofNat 32 k ↔ t.toNat % 1000 = k := by
  have hp : Config.heartbeatPeriod.toNat = 1000 := rfl
  rw [← BitVec.toNat_inj, BitVec.toNat_umod, hp, BitVec.toNat_ofNat, Nat.mod_eq_of_lt (a := k)]
  omega

/-- A compare-match that is not masked, whole. -/
theorem tickInterrupt_fired {s : State} (h : s.irqMask = false) :
    tickInterrupt s = { s with time := s.time + 1#32, updated := true } := by simp [tickInterrupt, h]

/-- A masked compare-match. -/
theorem tickInterrupt_masked {s : State} (h : s.irqMask = true) : tickInterrupt s = s := by simp [tickInterrupt, h]

/-! ### The timer's pair and the inputs to come, which no transaction reads again once it has begun -/

theorem renderThen_timer (v : Rgb) (k : AfterRender) (s : State) (τ : Time) (u : Bool) (l : List Input) :
    renderThen v k { s with time := τ, updated := u, inputs := l } =
      { renderThen v k s with time := τ, updated := u, inputs := l } := by
  rcases Bool.eq_false_or_eq_true s.phased with hp | hp
  · simp only [renderThen, render, emit, hp, if_true]
    rfl
  · simp only [renderThen, render, emit, hp]
    cases k <;> rfl

/-- The engine neither reads nor writes them. -/
theorem engine_timer (t : Time) (s : State) (τ : Time) (u : Bool) (l : List Input) :
    engine t { s with time := τ, updated := u, inputs := l } =
      { engine t s with time := τ, updated := u, inputs := l } := by
  cases h : engineSends t s
  · rw [engine_silent h, engine_silent (s := { s with time := τ, updated := u, inputs := l }) h]
    rfl
  · rw [engine_sends h, engine_sends (s := { s with time := τ, updated := u, inputs := l }) h]
    exact renderThen_timer _ _ (fadeStep s) τ u l

/-- The end of a transaction neither reads nor writes them. -/
theorem endTransaction_timer (s : State) (τ : Time) (u : Bool) (l : List Input) :
    endTransaction { s with time := τ, updated := u, inputs := l } =
      { endTransaction s with time := τ, updated := u, inputs := l } := by
  rcases s with ⟨_, _, _, _, _, _, _, _, _, _, _, seq, serState, _, _, k, _, _, _, _, _⟩
  cases serState <;> cases k <;> cases seq <;> rfl

/-- In the untimed grain an engine pass leaves ticks unmasked. -/
theorem engine_irqMask {s : State} (t : Time) (hm : s.irqMask = false) (hp : s.phased = false) :
    (engine t s).irqMask = false := by
  cases h : engineSends t s
  · rw [engine_silent h]
    exact hm
  · rw [engine_sends h, renderThen_whole (s := fadeStep s) hp]
    simp [render, emit_whole (s := fadeStep s) hp]

end Sys2Proof.Machine
end

