-- ==== Sys2Proof/Laws/PerInstr.lean ====
section
/-! SUPPORT. Statements about every command as syntax, one lemma per constructor. -/

namespace Sys2Proof.Laws.OpcodeDispatch

/-- The opcode map (spec/30_encoding.md rule R101) sends a command's opcode and operands back to the command, whatever stands in the
operand fields it does not read (rule R103). -/
def Statement (i : Instr) : Prop :=
  ∀ value index : Word16,
    dispatchOpcode i.opcode (i.valueOperand.getD value) (i.indexOperand.getD index) = .command i

theorem reset : Statement .reset := fun _ _ => rfl
theorem commit : Statement .commit := fun _ _ => rfl
theorem setStatus (value : Word16) : Statement (.setStatus value) := fun _ _ => rfl
theorem setRed (value : Word16) : Statement (.setRed value) := fun _ _ => rfl
theorem setGreen (value : Word16) : Statement (.setGreen value) := fun _ _ => rfl
theorem setBlue (value : Word16) : Statement (.setBlue value) := fun _ _ => rfl
theorem fadeRed (value : Word16) : Statement (.fadeRed value) := fun _ _ => rfl
theorem fadeGreen (value : Word16) : Statement (.fadeGreen value) := fun _ _ => rfl
theorem fadeBlue (value : Word16) : Statement (.fadeBlue value) := fun _ _ => rfl
theorem setFadeRate (value : Word16) : Statement (.setFadeRate value) := fun _ _ => rfl
theorem setBlink (value index : Word16) : Statement (.setBlink value index) := fun _ _ => rfl

end Sys2Proof.Laws.OpcodeDispatch
end

