-- ==== Sys2Proof/Tests/Slice0.lean ====
section
/-! SUPPORT. The model's own tests: the vectors of spec/95_test_vectors.md (their names there stand in the docstrings), the smoke test of
the well-formedness checks, and a witness for the hypotheses of every statement that has some. -/

open Sys2Proof Sys2Proof.Machine

namespace Sys2Proof.Tests

/-! ## Helpers -/

/-- The state of an outcome that goes on. -/
def after (o : Host.Outcome State Fault Refusal) : Option State :=
  match o with
  | .next t => some t
  | .fault _ => none
  | .refused _ => none

/-- The start state of 95_test_vectors.md section 2.2. -/
def start : State :=
  { State.reset with
    cur := { red := 700#16, green := 40000#16, blue := 9#16 }
    tgt := { red := 0#16, green := 500#16, blue := 9#16 }
    rate := 300#16, duty := 30#16, period := 100#16, status := true, time := 77#32, updated := true }

/-- The reset state with inputs to come. -/
def given (inputs : List Input) : State := { State.reset with inputs := inputs }

/-- Packet E1, `RESET`. -/
def pktE1 : List Byte := [0x40#8, 0x00#8, 0x00#8, 0x00#8, 0x00#8, 0x00#8, 0x00#8, 0x00#8, 0xbb#8, 0xc4#8]

/-- Packet E6, `SET_BLINK 30, 100`. -/
def pktE6 : List Byte := [0x40#8, 0x0a#8, 0x1e#8, 0x00#8, 0x64#8, 0x00#8, 0x00#8, 0x00#8, 0x0d#8, 0x4a#8]

/-- Packet E7, `RAW 11, 5, 5`. -/
def pktE7 : List Byte := [0x40#8, 0x0b#8, 0x05#8, 0x00#8, 0x05#8, 0x00#8, 0x00#8, 0x00#8, 0x01#8, 0x9d#8]

/-- Packet E8, `RAW 255, 0, 0`. -/
def pktE8 : List Byte := [0x40#8, 0xff#8, 0x00#8, 0x00#8, 0x00#8, 0x00#8, 0x00#8, 0x00#8, 0xb4#8, 0xcb#8]

/-- Packet E10, E1 with a corrupted trailer. -/
def pktE10 : List Byte := [0x40#8, 0x00#8, 0x00#8, 0x00#8, 0x00#8, 0x00#8, 0x00#8, 0x00#8, 0xbb#8, 0x44#8]

/-- A state in the middle of a `COMMIT` transaction, its frame just started, in the phased grain. -/
def busy (inputs : List Input) : State :=
  serStart 0x000100#24
    { State.reset with
      inputs := inputs, phased := true, seq := .cmd, afterRender := .snap, frames := [0x000100#24] }

/-- The same in the latch delay. -/
def latched (inputs : List Input) : State :=
  { busy inputs with serState := .latch, irqMask := false, ledDout := false, bitcnt := 0#5 }

/-! ## Well-formedness: ill-formed terms are refused -/

theorem test_packetWf_accepts : packetWf pktE1 = true := by decide

theorem test_packetWf_refuses_nine : packetWf (pktE1.take 9) = false := by decide

theorem test_packetWf_refuses_eleven : packetWf (0x00#8 :: pktE1) = false := by decide

/-- A table with a second zero entry breaks G-ONLYZERO. -/
theorem test_gamma_refuses_two_zeros : ¬ Config.GammaAdmissible (fun _ => 0#8) := by
  intro h
  exact absurd (h.2.2.1 ⟨1, by decide⟩ (by decide)) (by decide)

/-- A table that does not start at zero breaks G-ZERO. -/
theorem test_gamma_refuses_no_zero : ¬ Config.GammaAdmissible (fun _ => 7#8) := by
  intro h
  exact absurd h.2.1 (by decide)

/-! ## Decoding: 95_test_vectors.md section 2.1, words written out -/

theorem test_integrity_empty : integrity16 [] = 0x0000#16 := by decide

theorem test_integrity_check_string :
    integrity16 [0x31#8, 0x32#8, 0x33#8, 0x34#8, 0x35#8, 0x36#8, 0x37#8, 0x38#8, 0x39#8] = 0xB4C8#16 := by decide

theorem test_integrity_E9 :
    integrity16 [0x40#8, 0x06#8, 0xe9#8, 0x03#8, 0x00#8, 0x00#8, 0x00#8, 0x00#8, 0x8e#8, 0xec#8] = 0x833F#16 := by decide

theorem test_decode_reset : decode pktE1 = .command .reset := by decide

theorem test_decode_commit :
    decode [0x40#8, 0x01#8, 0x00#8, 0x00#8, 0x00#8, 0x00#8, 0x00#8, 0x00#8, 0xab#8, 0x04#8] = .command .commit := by decide

theorem test_decode_setStatus :
    decode [0x40#8, 0x02#8, 0x01#8, 0x00#8, 0x00#8, 0x00#8, 0x00#8, 0x00#8, 0x99#8, 0xd5#8] =
      .command (.setStatus 1#16) := by decide

theorem test_decode_setRed :
    decode [0x40#8, 0x03#8, 0xff#8, 0xff#8, 0x00#8, 0x00#8, 0x00#8, 0x00#8, 0x88#8, 0xdf#8] =
      .command (.setRed 65535#16) := by decide

theorem test_decode_setGreen :
    decode [0x40#8, 0x04#8, 0x00#8, 0x40#8, 0x00#8, 0x00#8, 0x00#8, 0x00#8, 0xff#8, 0xcb#8] =
      .command (.setGreen 16384#16) := by decide

theorem test_decode_setBlue :
    decode [0x40#8, 0x05#8, 0x7f#8, 0x00#8, 0x00#8, 0x00#8, 0x00#8, 0x00#8, 0xe5#8, 0x0b#8] =
      .command (.setBlue 127#16) := by decide

theorem test_decode_fadeRed :
    decode [0x40#8, 0x06#8, 0xe8#8, 0x03#8, 0x00#8, 0x00#8, 0x00#8, 0x00#8, 0x8e#8, 0xec#8] =
      .command (.fadeRed 1000#16) := by decide

theorem test_decode_fadeGreen :
    decode [0x40#8, 0x07#8, 0x00#8, 0x80#8, 0x00#8, 0x00#8, 0x00#8, 0x00#8, 0xcc#8, 0xda#8] =
      .command (.fadeGreen 32768#16) := by decide

theorem test_decode_fadeBlue :
    decode [0x40#8, 0x08#8, 0x58#8, 0x02#8, 0x00#8, 0x00#8, 0x00#8, 0x00#8, 0x46#8, 0xdc#8] =
      .command (.fadeBlue 600#16) := by decide

theorem test_decode_setFadeRate :
    decode [0x40#8, 0x09#8, 0x00#8, 0x01#8, 0x00#8, 0x00#8, 0x00#8, 0x00#8, 0x1f#8, 0x04#8] =
      .command (.setFadeRate 256#16) := by decide

theorem test_decode_setBlink : decode pktE6 = .command (.setBlink 30#16 100#16) := by decide

theorem test_decode_stopFade :
    decode [0x40#8, 0x09#8, 0x00#8, 0x00#8, 0x00#8, 0x00#8, 0x00#8, 0x00#8, 0x22#8, 0xc4#8] =
      .command .stopFade := by decide

theorem test_decode_blinkOff :
    decode [0x40#8, 0x0a#8, 0x00#8, 0x00#8, 0x00#8, 0x00#8, 0x00#8, 0x00#8, 0x11#8, 0xc4#8] =
      .command .blinkOff := by decide

theorem test_decode_E7 : decode pktE7 = .unrecognized 11#8 := by decide

theorem test_decode_E8 : decode pktE8 = .unrecognized 255#8 := by decide

theorem test_decode_E9 :
    decode [0x40#8, 0x06#8, 0xe9#8, 0x03#8, 0x00#8, 0x00#8, 0x00#8, 0x00#8, 0x8e#8, 0xec#8] = .dropped := by decide

theorem test_decode_E10 : decode pktE10 = .dropped := by decide

theorem test_decode_E11 :
    decode [0x40#8, 0x01#8, 0x00#8, 0x00#8, 0x00#8, 0x00#8, 0x00#8, 0x00#8, 0xab#8, 0x84#8] = .dropped := by decide

theorem test_decode_wrong_length : decode (pktE1.take 8) = .wrongLength 8 := by decide

/-- "Ignored fields": operands that COMMIT does not read. -/
theorem test_decode_ignores_operands :
    decode [0x40#8, 0x01#8, 0x34#8, 0x12#8, 0xcd#8, 0xab#8, 0x00#8, 0x00#8, 0x58#8, 0x3f#8] = .command .commit := by decide

/-- "Ignored fields": `reqtype = 0xC0`. -/
theorem test_decode_ignores_reqtype :
    decode [0xc0#8, 0x01#8, 0x34#8, 0x12#8, 0xcd#8, 0xab#8, 0x00#8, 0x00#8, 0x50#8, 0x5f#8] = .command .commit := by decide

/-- "Ignored fields": `length = 7`. -/
theorem test_decode_ignores_length :
    decode [0x40#8, 0x01#8, 0x34#8, 0x12#8, 0xcd#8, 0xab#8, 0x07#8, 0x00#8, 0x5a#8, 0x0f#8] = .command .commit := by decide

theorem test_encode_E6 : encode (.setBlink 30#16 100#16) = pktE6 := by decide

theorem test_encodeRaw_E7 : encodeRaw 11#8 5#16 5#16 = pktE7 := by decide

/-- The 80-bit word of `FADE_RED 1000` and its bytes, each from the other (rule R99). -/
theorem test_packet_word :
    packetOfWord 0xEC8E0000000003E80640#80 =
      [0x40#8, 0x06#8, 0xe8#8, 0x03#8, 0x00#8, 0x00#8, 0x00#8, 0x00#8, 0x8e#8, 0xec#8] ∧
    wordOfPacket pktE6 = 0x4A0D00000064001E0A40#80 ∧ wordOfPacket pktE1 = 0xC4BB0000000000000040#80 := by decide

/-- `P & mask = match` on those words. -/
theorem test_row_match :
    0xEC8E0000000003E80640#80 &&& rowMask = rowMatch (.fadeRed 1000#16) ∧
    0x4A0D00000064001E0A40#80 &&& rowMask = rowMatch (.setBlink 30#16 100#16) ∧
    0xC4BB0000000000000040#80 &&& rowMask = rowMatch .reset := by decide

/-- The word whose ten bytes are 0 has no good trailer: nothing is added to a packet word. -/
theorem test_decodeWord_zero : decodeWord 0#80 = .dropped := by decide

/-- The 80-bit word of `FADE_RED 1000`. -/
theorem test_table_word_whole : decodeTableWord 80 0xEC8E0000000003E80640 = some (.fadeRed 1000#16) := by decide

/-- A row's match bits alone, and the same word with operand bits. -/
theorem test_table_word_short :
    decodeTableWord 16 0x0A00 = some (.setBlink 0#16 0#16) ∧
    decodeTableWord 48 0x0064001E0A00 = some (.setBlink 30#16 100#16) ∧ decodeTableWord 16 0x0B00 = none := by decide

/-! ## Commands: 95_test_vectors.md section 2.2 -/

theorem test_reset_C1 :
    (after (exec .reset start)).map (fun t => (t.cur, t.tgt, t.status, t.indicator, t.rate, t.duty, t.period)) =
      some (Rgb.black, Rgb.black, false, false, 300#16, 30#16, 100#16) := rfl

theorem test_reset_C1_frame : (after (exec .reset start)).map (·.frames) = some [0x000000#24] := by
  simp [after, exec, execReset, commitBody, clearColours, renderThen, runAfterRender, start, State.reset]

theorem test_commit_C2 :
    (after (exec .commit start)).map (fun t => (t.indicator, t.tgt, t.cur == start.cur, t.status)) =
      some (true, { red := 700#16, green := 40000#16, blue := 9#16 }, true, true) := by decide

/-- The gamma indices of C2 are 312, 5, 0. -/
theorem test_commit_C2_frame :
    (after (exec .commit start)).map (·.frames) =
      some [Config.gamma 312#9 ++ Config.gamma 5#9 ++ Config.gamma 0#9] := rfl

theorem test_setStatus_C5 :
    (after (exec (.setStatus 0#16) start)).map (fun t => (t.status, t.indicator)) = some (false, false) := by decide

theorem test_setStatus_C7 : (after (exec (.setStatus 256#16) State.reset)).map (·.status) = some true := by decide

theorem test_setRed_C8 :
    after (exec (.setRed 65535#16) start) =
      some { start with cur := { red := 65535#16, green := 40000#16, blue := 9#16 },
                        tgt := { red := 65535#16, green := 40000#16, blue := 9#16 } } := by decide

theorem test_setGreen_C9 :
    after (exec (.setGreen 0#16) start) =
      some { start with cur := { red := 700#16, green := 0#16, blue := 9#16 },
                        tgt := { red := 700#16, green := 0#16, blue := 9#16 } } := by decide

theorem test_setBlue_C10 :
    after (exec (.setBlue 127#16) start) =
      some { start with cur := { red := 700#16, green := 40000#16, blue := 127#16 },
                        tgt := { red := 700#16, green := 40000#16, blue := 127#16 } } := by decide

theorem test_fadeRed_C11 :
    after (exec (.fadeRed 1000#16) start) =
      some { start with tgt := { red := 1000#16, green := 500#16, blue := 9#16 } } := by decide

theorem test_fadeGreen_C12 :
    after (exec (.fadeGreen 40000#16) start) =
      some { start with tgt := { red := 0#16, green := 40000#16, blue := 9#16 } } := by decide

theorem test_fadeBlue_C13 :
    after (exec (.fadeBlue 65535#16) start) =
      some { start with tgt := { red := 0#16, green := 500#16, blue := 65535#16 } } := by decide

theorem test_setFadeRate_C15 :
    after (exec (.setFadeRate 65535#16) start) = some { start with rate := 65535#16 } := by decide

theorem test_setFadeRate_C16 :
    after (exec (.setFadeRate 0#16) start) =
      some { start with tgt := { red := 700#16, green := 40000#16, blue := 9#16 } } := by decide

theorem test_setBlink_C18 :
    after (exec (.setBlink 7#16 5#16) start) = some { start with duty := 7#16, period := 5#16 } := by decide

theorem test_setBlink_C20 :
    (after (exec (.setBlink 9#16 0#16) start)).map (fun t => (t.duty, t.period, t.tgt == start.tgt, t.frames.length)) =
      some (9#16, 0#16, true, 1) := by decide

/-! ## Whole transactions: C21, C24, and the answer -/

theorem test_unrecognised_C21 :
    after (step { start with inputs := [.packet pktE7] }) = some { start with responses := [0#8] } := by decide

theorem test_dropped_C24 :
    after (step { start with inputs := [.packet pktE10] }) = some { start with responses := [0#8] } := by decide

theorem test_command_transaction :
    (after (step (given [.packet pktE6]))).map (fun t => (t.duty, t.period, t.responses, t.cmdReady, t.inputs)) =
      some (30#16, 100#16, [0#8], true, []) := by decide

/-! ## Timer: 95_test_vectors.md section 2.3 -/

theorem test_tick_T1 :
    after (step (given [.tickEv])) = some { State.reset with time := 1#32, updated := true } := by decide

theorem test_tick_T5 :
    tickInterrupt { State.reset with time := 43#32, updated := true, irqMask := true } =
      { State.reset with time := 43#32, updated := true, irqMask := true } := by decide

theorem test_tick_T7 :
    tickInterrupt { State.reset with time := 0xFFFFFFFF#32 } = { State.reset with time := 0#32, updated := true } := by decide

theorem test_readAndClear_T3 :
    readAndClear { State.reset with time := 43#32, updated := true } =
      ({ time := 43#32, updated := true }, { State.reset with time := 43#32 }) := by decide

theorem test_readAndClear_T8 :
    readAndClearTick { State.reset with time := 43#32, updated := true } =
      ({ time := 43#32, updated := true }, { State.reset with time := 44#32, updated := true }) := by decide

/-- T9, the second poll: nothing. -/
theorem test_poll_T9 : after (step { State.reset with time := 6#32 }) = some { State.reset with time := 6#32 } := by decide

/-- T10 on a fade: three ticks and one poll are one step of the fade. -/
theorem test_poll_T10 :
    (after (step { start with time := 8#32, inputs := [.poll] })).map (fun t => (t.cur.green, t.updated, t.time)) =
      some (39700#16, false, 8#32) := by decide

/-! ## Fade: 95_test_vectors.md section 1, S1, and section 2.4 -/

theorem test_fade_S1 :
    fadeChannel 256#16 0#16 1000#16 = 256#16 ∧ fadeChannel 256#16 768#16 1000#16 = 1000#16 ∧
    fadeChannel 256#16 1000#16 1000#16 = 1000#16 := by decide

/-- F3, F4, F5, F6. -/
theorem test_fade_corners :
    fadeChannel 256#16 1000#16 0#16 = 744#16 ∧ fadeChannel 256#16 232#16 0#16 = 0#16 ∧
    fadeChannel 65535#16 65535#16 0#16 = 0#16 ∧ fadeChannel 60000#16 65000#16 65535#16 = 65535#16 := by decide

/-- F7: one channel idle, one down, one up, in one pass. -/
theorem test_fade_F7 :
    (engine 7#32 { State.reset with
        cur := { red := 0#16, green := 65535#16, blue := 10#16 }, tgt := { red := 0#16, green := 0#16, blue := 20#16 },
        rate := 1#16 }).cur = { red := 0#16, green := 65534#16, blue := 11#16 } := by decide

/-! ## Blink, render decision, heartbeat: 95_test_vectors.md sections 2.5 and 2.6 -/

theorem test_blink_S2 :
    blinkOverlay 30#16 100#16 200#32 = { refresh := true, black := false } ∧
    blinkOverlay 30#16 100#16 230#32 = { refresh := true, black := true } ∧
    blinkOverlay 30#16 100#16 231#32 = { refresh := false, black := false } := by decide

theorem test_blink_corners :
    blinkOverlay 0#16 0#16 5#32 = { refresh := false, black := false } ∧
    blinkOverlay 0#16 7#16 14#32 = { refresh := true, black := true } ∧
    blinkOverlay 7#16 7#16 14#32 = { refresh := true, black := false } ∧
    blinkOverlay 9#16 7#16 9#32 = { refresh := false, black := false } ∧
    blinkOverlay 0#16 1#16 12345#32 = { refresh := true, black := true } ∧
    blinkOverlay 1#16 1#16 12345#32 = { refresh := true, black := false } := by decide

/-- B4: black wins over the fade's render, and the fade still advances. -/
theorem test_engine_B4 :
    (engine 230#32 { State.reset with
        cur := { red := 100#16, green := 200#16, blue := 300#16 }, tgt := { red := 100#16, green := 200#16, blue := 400#16 },
        rate := 50#16, duty := 30#16, period := 100#16 }).cur = { red := 100#16, green := 200#16, blue := 350#16 } ∧
    (engine 230#32 { State.reset with
        cur := { red := 100#16, green := 200#16, blue := 300#16 }, tgt := { red := 100#16, green := 200#16, blue := 400#16 },
        rate := 50#16, duty := 30#16, period := 100#16 }).frames = [frameOf Rgb.black] := ⟨by decide, rfl⟩

theorem test_heartbeat :
    heartbeatFlag 1000#32 false = true ∧ heartbeatFlag 1009#32 true = true ∧ heartbeatFlag 1010#32 true = false ∧
    heartbeatFlag 1011#32 false = false ∧ heartbeatFlag 0#32 false = true ∧ heartbeatFlag 10#32 true = false ∧
    heartbeatFlag 4294967000#32 false = true ∧ heartbeatFlag 4294967010#32 true = false := by decide

/-! ## Frames: 95_test_vectors.md section 2.7 -/

theorem test_frame_X2 :
    frameUnder Config.gammaRef { red := 65535#16, green := 32768#16, blue := 127#16 } = 0x40FF00#24 := by decide

theorem test_gammaRef_entries :
    Config.gammaRef 33#9 = 2#8 ∧ Config.gammaRef 39#9 = 2#8 ∧ Config.gammaRef 500#9 = 245#8 ∧ Config.gammaRef 509#9 = 254#8 ∧
    Config.gammaRef 510#9 = 255#8 := by decide

/-- The first slot of X2 is a 0 and the second a 1: levels and nominal lengths. -/
theorem test_waveform_X2 :
    waveform 4 (serStart 0x40FF00#24 State.reset) = [(true, 350), (false, 900), (true, 900), (false, 350)] := by decide

/-- In the phased grain a command's frame keeps the sequencer busy and ticks masked. -/
theorem test_phased_reset :
    (after (step { given [.packet pktE1] with phased := true })).map
      (fun t => (t.cmdReady, t.irqMask, t.ledDout, t.serState, t.bitcnt, t.responses)) =
      some (false, true, true, .shift, 23#5, []) := rfl

/-- `COMMIT` phase by phase: the indicator is written before the `RENDER`, the targets are snapped after it (rules R122, R190). -/
theorem test_phased_commit :
    (after (exec .commit { start with phased := true })).map (fun t => (t.indicator, t.tgt == start.tgt, t.afterRender)) =
      some (true, true, .snap) := rfl

/-- The latch delay of a `COMMIT` is over: its `SNAP` and the end of its transaction. -/
theorem test_render_returns :
    (after (step { latched [.phaseEnd] with tgt := { red := 1#16, green := 2#16, blue := 3#16 } })).map
      (fun t => (t.tgt, t.cmdReady, t.afterRender, t.responses)) = some (Rgb.black, true, .nothing, [0#8]) := by decide

/-- An engine pass with a frame, phase by phase: the heartbeat of `t = 1000` waits for the `RENDER` (rules R179, R190). -/
theorem test_phased_heartbeat :
    (engine 1000#32 { start with phased := true }).indicator = false ∧
    (engine 1000#32 { start with phased := true }).afterRender = .heartbeat 1000#32 ∧
    (renderReturns (engine 1000#32 { start with phased := true })).indicator = true := ⟨rfl, rfl, rfl⟩

/-! ## Reset and the environment -/

theorem test_reset_rate : State.reset.rate = 256#16 := by decide

theorem test_powerOn :
    after (step { busy [.powerOn, .poll] with status := true }) =
      some { State.reset with inputs := [.poll], phased := true } := by decide

theorem test_packet_length :
    (match step (given [.packet (pktE1.take 9)]) with
      | .refused r => some r
      | .next _ => none
      | .fault _ => none) = some (.packetLength 9) := by decide

/-! ## Witnesses: the hypotheses of every statement that has some can be met -/

/-- A helper for the witnesses: a state near reset meets the invariant. -/
theorem given_inv (inputs : List Input) : (given inputs).Inv := by constructor <;> simp [given, State.reset, Config.fadeRateReset]

/-- The same for a state with a transaction open. -/
theorem busy_inv (inputs : List Input) : (busy inputs).Inv := by
  constructor <;> simp [busy, serStart, State.reset, Config.fadeRateReset]

/-- The three clauses, opcodes at the ends of their ranges. -/
theorem witness_DecodeGatesThenDispatches :
    integrity16 pktE10 ≠ 0x4FFE#16 ∧
    (integrity16 pktE1 = 0x4FFE#16 ∧ (0#8 : Byte) ≤ 10#8) ∧ (integrity16 pktE6 = 0x4FFE#16 ∧ (10#8 : Byte) ≤ 10#8) ∧
    (integrity16 pktE7 = 0x4FFE#16 ∧ (10#8 : Byte) < 11#8) ∧ (integrity16 pktE8 = 0x4FFE#16 ∧ (10#8 : Byte) < 255#8) := by decide

theorem witness_CommandPacketsAreEncodings : decode pktE6 = .command (.setBlink 30#16 100#16) := by decide

theorem witness_ExactlyTheComputedTrailerPasses : (pktE1.take 8).length = 8 := by decide

theorem witness_StepRunsTheDecodedCommand :
    (given [.packet pktE6]).inputs = .packet pktE6 :: [] ∧ (given [.packet pktE6]).seq = .idle ∧
    decode pktE6 = .command (.setBlink 30#16 100#16) ∧ decodeWith integrity16 pktE6 = .command (.setBlink 30#16 100#16) := by
  decide

theorem witness_TableWordRunsNext :
    decodeTableWord 16 0x0000 = some .reset ∧ decodeTableWord 16 0x0A00 = some (.setBlink 0#16 0#16) := by decide

theorem witness_DroppedPacketChangesNothing :
    (given [.packet pktE10]).inputs = .packet pktE10 :: [] ∧ (given [.packet pktE10]).seq = .idle ∧
    (given [.packet pktE10]).serState = .idle ∧ (given [.packet pktE10]).afterRender = .nothing ∧ pktE10.length = 10 ∧
    integrityOk pktE10 = false ∧ integrityOkWith (fun _ => 0#16) pktE10 = false := by decide

theorem witness_UnrecognisedOpcodeChangesNothing :
    (given [.packet pktE7]).inputs = .packet pktE7 :: [] ∧ (given [.packet pktE7]).seq = .idle ∧
    (given [.packet pktE7]).serState = .idle ∧ (given [.packet pktE7]).afterRender = .nothing ∧
    integrityOk pktE7 = true ∧ 11 ≤ (11#8 : Byte).toNat ∧ integrityOk pktE8 = true ∧ 11 ≤ (255#8 : Byte).toNat ∧
    integrityOkWith (fun _ => 0x4FFE#16) pktE7 = true := by decide

theorem witness_PortAnswersEveryPacketAlike :
    start.seq = .idle ∧ start.serState = .idle ∧ start.phased = false ∧ pktE1.length = 10 ∧ pktE10.length = 10 := by decide

/-- One byte short, and one too many. -/
theorem witness_WrongLengthPacketIsRefused :
    (given [.packet (pktE1.take 9)]).inputs = .packet (pktE1.take 9) :: [] ∧ (given []).seq = .idle ∧
    (pktE1.take 9).length ≠ 10 ∧ (0#8 :: pktE1).length ≠ 10 := by decide

/-- In the slots and in the latch delay. -/
theorem witness_PacketWaitsWhileBusy :
    ((busy [.packet pktE1]).inputs = .packet pktE1 :: [] ∧ (busy [.packet pktE1]).seq ≠ .idle ∧
      (busy [.packet pktE1]).serState = .shift) ∧
    ((latched [.packet pktE1]).inputs = .packet pktE1 :: [] ∧ (latched [.packet pktE1]).seq ≠ .idle ∧
      (latched [.packet pktE1]).serState ≠ .shift) := by decide

theorem witness_CommitShowsStatusAndColourAndSnaps : start.phased = false := by decide

theorem witness_CommitTwiceSendsTheSameFrame : ∃ t, exec .commit start = .next t := ⟨_, rfl⟩

/-- Zero, and the least and the greatest value that is not. -/
theorem witness_SetFadeRateStoresOrSnaps : (0#16 : Word16) = 0#16 ∧ (1#16 : Word16) ≠ 0#16 ∧ (65535#16 : Word16) ≠ 0#16 := by decide

/-- A command that writes a register and an engine pass that does; and whole steps that change a register (by a command, by a poll, by a
power-on reset, where a `RENDER` returns), `status`, `indicator`, `time` and `updated`. -/
theorem witness_RegistersChangeOnlyByTheirWriters :
    (∃ t, exec (.setRed 5#16) start = .next t ∧ t.get (.cur .red) ≠ start.get (.cur .red)) ∧
    (engine 1#32 start).get (.cur .red) ≠ start.get (.cur .red) ∧
    (∃ s t, s.Inv ∧ step s = .next t ∧ t.get .period ≠ s.get .period ∧ RunsNext (.setBlink 30#16 100#16) s) ∧
    (∃ s t, s.Inv ∧ step s = .next t ∧ t.get (.cur .red) ≠ s.get (.cur .red) ∧ t.updated ≠ s.updated ∧ PollsNext s) ∧
    (∃ s t, s.Inv ∧ step s = .next t ∧ t.get .rate ≠ s.get .rate ∧ t.status ≠ s.status ∧ ResetsNext s) ∧
    (∃ s t, s.Inv ∧ step s = .next t ∧ t.get (.tgt .red) ≠ s.get (.tgt .red) ∧ s.serState = .latch) ∧
    (∃ s t, s.Inv ∧ step s = .next t ∧ t.indicator ≠ s.indicator ∧ s.afterRender = .heartbeat 1000#32) ∧
    (∃ s t, s.Inv ∧ step s = .next t ∧ t.time ≠ s.time ∧ TicksNext s) := by
  refine ⟨⟨_, rfl, by decide⟩, by decide,
    ⟨given [.packet pktE6], _, ?_, rfl, by decide, rfl, pktE6, [], rfl, by decide⟩,
    ⟨{ start with inputs := [.poll] }, _, ?_, rfl, by decide, by decide, rfl, .inr (.inl ⟨[], rfl⟩)⟩,
    ⟨{ start with inputs := [.powerOn] }, _, ?_, rfl, by decide, by decide, [], rfl⟩,
    ⟨{ latched [.phaseEnd] with tgt := { red := 1#16, green := 2#16, blue := 3#16 } }, _, ?_, rfl, by decide, rfl⟩,
    ⟨{ latched [.phaseEnd] with seq := .poll, afterRender := .heartbeat 1000#32 }, _, ?_, rfl, by decide, rfl⟩,
    ⟨given [.tickEv], _, ?_, rfl, by decide, rfl, .inl ⟨[], rfl⟩⟩⟩
  all_goals constructor <;> simp [given, latched, busy, start, serStart, State.reset, Config.fadeRateReset]

/-- A command that renders and one that does not, with `index` on both sides of its corner. -/
theorem witness_CommandsRenderInExactlyThreeCases :
    (∃ t, exec (.setBlink 5#16 0#16) start = .next t ∧ rendersFrame (.setBlink 5#16 0#16) = true) ∧
    (∃ t, exec (.setBlink 5#16 1#16) start = .next t ∧ rendersFrame (.setBlink 5#16 1#16) = false) ∧
    (∃ t, exec .commit { start with phased := true } = .next t) :=
  ⟨⟨_, rfl, rfl⟩, ⟨_, rfl, rfl⟩, ⟨_, rfl⟩⟩

/-- A command that snaps and sets no colour; and one that snaps after a `RENDER` stepped phase by phase. -/
theorem witness_SnappingCommandsLeaveNoFade :
    ∃ t, exec (.setFadeRate 0#16) start = .next t ∧ snapsTargets (.setFadeRate 0#16) = true ∧
      setsCurrent (.setFadeRate 0#16) = false ∧ rendersFrame (.setFadeRate 0#16) = false ∧
      (∃ u, exec .commit { start with phased := true } = .next u ∧ snapsTargets .commit = true ∧
        rendersFrame .commit = true) := ⟨_, rfl, rfl, rfl, rfl, _, rfl, rfl, rfl⟩

theorem witness_SettingAColourDoesNotShowIt :
    (Instr.setBlue 7#16 = .setRed 7#16 ∨ Instr.setBlue 7#16 = .setGreen 7#16 ∨ Instr.setBlue 7#16 = .setBlue 7#16) ∧
    State.reset.period = 0#16 := by decide

theorem witness_FiredTickWritesTimeAndFlagOnly :
    (given [.tickEv]).inputs = .tickEv :: [] ∧ (given [.tickEv]).irqMask = false := by decide

theorem witness_MaskedTickIsDropped :
    (busy [.tickEv]).inputs = .tickEv :: [] ∧ (busy [.tickEv]).irqMask = true := by decide

theorem witness_TickWithReadAndClearIsTickAfterPoll :
    start.seq = .idle ∧ start.irqMask = false ∧ start.phased = false := by decide

/-- Both halves: a non-zero number of ticks from a state with ticks unmasked. -/
theorem witness_TimeCountsFiredTicks : start.irqMask = false ∧ (1 : Nat) ≠ 0 := by decide

theorem witness_TickCommutesWithCommandPackets :
    start.seq = .idle ∧ start.irqMask = false ∧ start.phased = false ∧ pktE1.length = 10 := by decide

/-- The flag clear, and set; a poll next, and nothing. -/
theorem witness_PollRunsTheEngineOncePerFlag :
    ((given [.poll]).inputs = .poll :: [] ∧ (given [.poll]).seq = .idle ∧ (given [.poll]).serState = .idle ∧
      (given [.poll]).afterRender = .nothing ∧ (given [.poll]).updated = false) ∧
    (start.inputs = [] ∧ start.seq = .idle ∧ start.serState = .idle ∧ start.afterRender = .nothing ∧
      start.updated = true) := by decide

/-- The three clauses: blue stands at its target, green below, red above it. -/
theorem witness_FadeStepMovesByAtMostRate :
    let cur : Rgb := { red := 65535#16, green := 0#16, blue := 9#16 }
    let tgt : Rgb := { red := 0#16, green := 65535#16, blue := 9#16 }
    (cur.get .blue).toNat = (tgt.get .blue).toNat ∧ (cur.get .green).toNat < (tgt.get .green).toNat ∧
    (tgt.get .red).toNat < (cur.get .red).toNat := by decide

theorem witness_ChangedMeansAChannelMoves : ({ start with rate := 1#16 } : State).rate ≠ 0#16 := by decide

/-- The clauses, each at its corner: blinking off; `m = duty` (also where both are 0, and at `m = period - 1`); `m = 0` alone;
neither. -/
theorem witness_BlinkOverlayAtItsTwoInstants :
    (0#16 : Word16) = 0#16 ∧
    (14 % 7 = (0#16 : Word16).toNat) ∧ (13 % 7 = (6#16 : Word16).toNat) ∧
    (14 % 7 ≠ (7#16 : Word16).toNat ∧ 14 % 7 = 0) ∧ (9 % 7 ≠ (9#16 : Word16).toNat ∧ 9 % 7 ≠ 0) := by decide

/-- `duty = 0`, `duty = period`, `duty` above it, and `period = 1`. -/
theorem witness_BlinkCornersOfDuty :
    (1#16 : Word16) ≠ 0#16 ∧ (7#16 : Word16) ≠ 0#16 ∧ (0#16 : Word16) = 0#16 ∧
    (7#16 : Word16) ≤ 7#16 ∧ (7#16 : Word16) ≤ 9#16 ∧
    (1#16 : Word16) = 1#16 := by decide

/-- The four rows of the table. -/
theorem witness_EngineRendersByTheDecisionTable :
    let same : Bool := changedFlag start.cur start.cur
    let differ : Bool := changedFlag start.cur start.tgt
    same = false ∧ differ = true ∧ (blinkOverlay 30#16 100#16 231#32).refresh = false ∧
    ((blinkOverlay 30#16 100#16 200#32).refresh = true ∧ (blinkOverlay 30#16 100#16 200#32).black = false) ∧
    ((blinkOverlay 30#16 100#16 230#32).refresh = true ∧ (blinkOverlay 30#16 100#16 230#32).black = true) := by decide

/-- The two instants, and the times beside them; both grains, with a pass that sends a frame. -/
theorem witness_HeartbeatPulsesTheIndicator :
    (1000#32 : Time).toNat % 1000 = 0 ∧ (0#32 : Time).toNat % 1000 = 0 ∧ (1010#32 : Time).toNat % 1000 = 10 ∧
    (start.phased = false ∧ ({ start with phased := true } : State).phased = true ∧ changedFlag start.cur start.tgt = true) ∧
    ((1009#32 : Time).toNat % 1000 ≠ 0 ∧ (1009#32 : Time).toNat % 1000 ≠ 10) ∧
    ((1011#32 : Time).toNat % 1000 ≠ 0 ∧ (1011#32 : Time).toNat % 1000 ≠ 10) := by decide

/-- A fade of one channel, and a channel that stands at its target. -/
theorem witness_FadeIsLinearOverPolledTicks :
    ∃ s : State, s.Inv ∧ s.phased = false ∧ s.inputs = tickPolls 4 ++ [.busReset] ∧
      s.cur.get .red ≤ s.tgt.get .red ∧ s.tgt.get .blue ≤ s.cur.get .blue :=
  ⟨{ given (tickPolls 4 ++ [.busReset]) with tgt := { red := 1000#16, green := 0#16, blue := 0#16 } },
    by constructor <;> simp [given, State.reset, Config.fadeRateReset], by decide, by decide, by decide, by decide⟩

theorem witness_BlinkShowsColourThenBlack :
    ∃ s : State, s.Inv ∧ s.phased = false ∧ s.cur = s.tgt ∧ s.inputs = tickPolls 4 ++ [] ∧ 1 ≤ 4 ∧
      s.time.toNat + 4 < 2 ^ 32 ∧ (s.time.toNat + 1) % s.period.toNat = 0 ∧ 0#16 < s.duty ∧ s.duty < s.period :=
  ⟨{ given (tickPolls 4 ++ []) with duty := 3#16, period := 5#16, time := 4#32 },
    by constructor <;> simp [given, State.reset, Config.fadeRateReset], by decide, by decide, by decide, by decide, by decide,
    by decide, by decide, by decide⟩

theorem witness_SkippedTicksGiveOnePass :
    (given (List.replicate 3 .tickEv ++ .poll :: [])).seq = .idle ∧
    (given (List.replicate 3 .tickEv ++ .poll :: [])).irqMask = false ∧
    (given (List.replicate 3 .tickEv ++ .poll :: [])).inputs = List.replicate (2 + 1) .tickEv ++ .poll :: [] := by decide

/-- An admissible table, and both ends of the range. -/
theorem witness_GammaEndsAndSteps : Config.GammaAdmissible Config.gammaRef ∧ (0 : Nat) < 511 ∧ (510 : Nat) < 511 :=
  ⟨gammaRef_admissible, by decide, by decide⟩

/-- The first slot and the last. -/
theorem witness_KthBitOnTheWireIsBit24MinusK :
    ((1 : Nat) ≤ 1 ∧ (1 : Nat) ≤ 24) ∧ ((1 : Nat) ≤ 24 ∧ (24 : Nat) ≤ 24) := by decide

/-- Pulses at the start of the frame, in the latch delay and after the frame: one is lost and two are taken. -/
theorem witness_PulsesInTheMaskedWindowAreLost :
    let es : List CycleEvent := .tickEv :: (List.replicate 48 .phaseEnd ++ [.tickEv, .phaseEnd, .tickEv])
    es.count .phaseEnd = 49 ∧ pulsesAfter 48 es = 2 := by decide

/-- A packet, a poll and a poll with a compare-match. -/
theorem witness_PhasedTransactionEndsAsTheAtomicOne :
    (given []).Inv ∧ (given []).phased = false ∧
    (∃ bytes, Input.packet pktE1 = .packet bytes ∧ bytes.length = 10) ∧ Input.poll = .poll ∧ Input.pollTick = .pollTick :=
  ⟨given_inv [], rfl, ⟨pktE1, rfl, rfl⟩, rfl, rfl⟩

theorem witness_PowerOnResetsEverything : (busy [.powerOn]).inputs = .powerOn :: [] := by decide

theorem witness_BusResetChangesNothing : (busy [.busReset]).inputs = .busReset :: [] := by decide

/-- A command that renders, from a state that meets the invariant. -/
theorem witness_EveryStepKeepsTheInvariant :
    (given [.packet pktE1]).Inv ∧ (∃ t, step (given [.packet pktE1]) = .next t) ∧
    ∃ t, stepWith (fun _ => 0#16) (given [.packet pktE1]) = .next t := ⟨given_inv _, ⟨_, rfl⟩, _, rfl⟩

theorem witness_FramesOnlyGrow :
    (∃ t, step (given [.packet pktE1]) = .next t) ∧ (given [.packet pktE1]).inputs ≠ .powerOn :: [] := ⟨⟨_, rfl⟩, by decide⟩

theorem witness_InputsAreServedOneAStep :
    (given [.packet pktE1, .tickEv]).Inv ∧ (given [.packet pktE1, .tickEv]).phased = false ∧
    (∀ bytes, .packet bytes ∈ (given [.packet pktE1, .tickEv]).inputs → bytes.length = 10) ∧
    2 ≤ (given [.packet pktE1, .tickEv]).inputs.length := by
  refine ⟨given_inv _, rfl, fun bytes h => ?_, by decide⟩
  simp only [given, List.mem_cons, Input.packet.injEq, reduceCtorEq, List.not_mem_nil, or_false] at h
  rw [h]
  rfl

/-- With nothing to come, and with a packet, a poll, a compare-match, a phase end and a power-on reset to come. -/
theorem witness_OpenTransactionEnds :
    ((busy []).Inv ∧ (busy []).seq ≠ .idle ∧ .powerOn ∉ (busy []).inputs) ∧
    (busy [.tickEv, .phaseEnd, .packet pktE1, .poll, .powerOn]).Inv ∧
    (busy [.tickEv, .phaseEnd, .packet pktE1, .poll, .powerOn]).seq ≠ .idle :=
  ⟨⟨busy_inv [], by decide, by decide⟩, busy_inv _, by decide⟩

end Sys2Proof.Tests
end

section
/-! PROOF. The commands `COMMIT`, `SET_STATUS`, `SET_*`, `FADE_*` and `SET_FADE_RATE` (spec/40_commands.md rules R122 to R130). -/

namespace Sys2Proof.Machine

/-! ### The shared operations of these commands -/

/-- `RENDER` with what follows it keeps everything no command writes. -/
theorem renderThen_outside (v : Rgb) (k : AfterRender) (s : State) : OutsideKept s (renderThen v k s) :=
  ⟨renderThen_time v k s, renderThen_updated v k s, renderThen_seq v k s, renderThen_respLen v k s,
    renderThen_responses v k s, renderThen_inputs v k s, renderThen_grain v k s⟩

/-- `SNAP` after a `RENDER` does not touch the indicator, in either grain. -/
@[simp] theorem renderThen_snap_indicator (v : Rgb) (s : State) : (renderThen v .snap s).indicator = s.indicator := by
  cases h : s.phased
  · rw [renderThen_whole h]; exact render_indicator v s
  · rw [renderThen_phased h]; exact render_indicator v s

/-- In the untimed grain `SNAP` is over when the `RENDER` before it is. -/
theorem renderThen_snap_tgt {s : State} (v : Rgb) (h : s.phased = false) : (renderThen v .snap s).tgt = s.cur := by
  rw [renderThen_whole h]; exact render_cur v s

/-- In the untimed grain nothing waits anew after a `RENDER`. -/
theorem renderThen_afterRender_whole {s : State} (v : Rgb) (k : AfterRender) (h : s.phased = false) :
    (renderThen v k s).afterRender = s.afterRender := by
  simpa [Awaits, h] using renderThen_awaits v k s

/-! `COMMIT_BODY()`, field by field. -/

@[simp] theorem commitBody_cur (s : State) : (commitBody s).cur = s.cur := renderThen_cur s.cur .snap _

@[simp] theorem commitBody_rate (s : State) : (commitBody s).rate = s.rate := renderThen_rate s.cur .snap _

@[simp] theorem commitBody_duty (s : State) : (commitBody s).duty = s.duty := renderThen_duty s.cur .snap _

@[simp] theorem commitBody_period (s : State) : (commitBody s).period = s.period := renderThen_period s.cur .snap _

@[simp] theorem commitBody_status (s : State) : (commitBody s).status = s.status := renderThen_status s.cur .snap _

@[simp] theorem commitBody_indicator (s : State) : (commitBody s).indicator = s.status :=
  renderThen_snap_indicator s.cur { s with indicator := s.status }

theorem commitBody_tgt_whole {s : State} (h : s.phased = false) : (commitBody s).tgt = s.cur :=
  renderThen_snap_tgt (s := { s with indicator := s.status }) s.cur h

theorem commitBody_afterRender_whole {s : State} (h : s.phased = false) :
    (commitBody s).afterRender = s.afterRender :=
  renderThen_afterRender_whole (s := { s with indicator := s.status }) s.cur .snap h

/-- `COMMIT_BODY()` sends exactly the frame of the current colour. -/
theorem commitBody_sent (s : State) : Sent (frameOf s.cur) s (commitBody s) :=
  renderThen_sent s.cur .snap { s with indicator := s.status }

theorem commitBody_outside (s : State) : OutsideKept s (commitBody s) := by
  obtain ⟨htime, hupd, hseq, hlen, hresp, hin, hgrain⟩ :=
    renderThen_outside s.cur .snap { s with indicator := s.status }
  exact ⟨htime, hupd, hseq, hlen, hresp, hin, hgrain⟩

theorem statusFlag_eq_decide (value : Word16) : statusFlag value = decide (value ≠ 0#16) := by
  by_cases h : value = 0#16 <;> simp [statusFlag, h]

/-- Setting one channel, whole: `tgt` is snapped to the new `cur`, on all three channels. -/
theorem setChannel_eq (c : Chan) (value : Word16) (s : State) :
    setChannel c value s = { s with cur := s.cur.set c value, tgt := s.cur.set c value } := rfl

/-! ### What each command runs -/

theorem exec_commit (s : State) : exec .commit s = .next (commitBody s) := rfl

theorem exec_setStatus (value : Word16) (s : State) :
    exec (.setStatus value) s = .next { s with status := statusFlag value } := rfl

theorem exec_setRed (value : Word16) (s : State) : exec (.setRed value) s = .next (setChannel .red value s) := rfl

theorem exec_setGreen (value : Word16) (s : State) : exec (.setGreen value) s = .next (setChannel .green value s) := rfl

theorem exec_setBlue (value : Word16) (s : State) : exec (.setBlue value) s = .next (setChannel .blue value s) := rfl

theorem exec_fadeRed (value : Word16) (s : State) : exec (.fadeRed value) s = .next (s.set (.tgt .red) value) := rfl

theorem exec_fadeGreen (value : Word16) (s : State) : exec (.fadeGreen value) s = .next (s.set (.tgt .green) value) := rfl

theorem exec_fadeBlue (value : Word16) (s : State) : exec (.fadeBlue value) s = .next (s.set (.tgt .blue) value) := rfl

theorem exec_setFadeRate (value : Word16) (s : State) :
    exec (.setFadeRate value) s = .next (if value = 0#16 then snap s else s.set .rate value) := rfl

/-! ### The obligations -/

/-- Settles O14: `COMMIT` is `COMMIT_BODY()`, whose `RENDER` and `SNAP` are both over within the step in the untimed grain. -/
theorem commitShowsStatusAndColourAndSnaps : Obligations.CommitShowsStatusAndColourAndSnaps := by
  intro s untimed
  exact ⟨commitBody s, exec_commit s, commitBody_indicator s, commitBody_tgt_whole untimed, commitBody_sent s,
    commitBody_cur s, commitBody_status s, commitBody_afterRender_whole untimed, commitBody_rate s, commitBody_duty s,
    commitBody_period s, commitBody_outside s⟩

/-- Settles O16: the flag `SET_STATUS` stores is the comparison of its value with zero. -/
theorem setStatusStoresNonZero : Obligations.SetStatusStoresNonZero := by
  intro s value
  rw [exec_setStatus, statusFlag_eq_decide]

/-- Settles O17: each of the three commands is `setChannel` of its channel. -/
theorem setColourWritesCurrentAndSnapsAll : Obligations.SetColourWritesCurrentAndSnapsAll := by
  intro s value
  rw [exec_setRed, exec_setGreen, exec_setBlue, setChannel_eq, setChannel_eq, setChannel_eq]
  exact ⟨rfl, rfl, rfl⟩

/-- Settles O18: each of the three commands is one write of a target register. -/
theorem fadeWritesOneTarget : Obligations.FadeWritesOneTarget := by
  intro s value
  rw [exec_fadeRed, exec_fadeGreen, exec_fadeBlue]
  exact ⟨rfl, rfl, rfl⟩

/-- Settles O19, by the two cases of the value. -/
theorem setFadeRateStoresOrSnaps : Obligations.SetFadeRateStoresOrSnaps := by
  intro s value
  refine ⟨fun nonzero => ?_, fun zero => ?_⟩
  · rw [exec_setFadeRate, if_neg nonzero]; rfl
  · rw [exec_setFadeRate, if_pos zero]; rfl

end Sys2Proof.Machine
end

section
/-! PROOF. The timer: a compare-match that fires, and READ_AND_CLEAR (spec/41_timer.md rules R151, R153). -/

namespace Sys2Proof.Machine

/-! ### READ_AND_CLEAR -/

@[simp] theorem readAndClear_snapshot (s : State) :
    (readAndClear s).1 = { time := s.time, updated := s.updated } := rfl

@[simp] theorem readAndClear_state (s : State) : (readAndClear s).2 = { s with updated := false } := rfl

/-- With the flag clear there is nothing to clear: READ_AND_CLEAR only reads. -/
theorem readAndClear_of_not_updated {s : State} (h : s.updated = false) :
    readAndClear s = ({ time := s.time, updated := false }, s) := by
  have same : { s with updated := false } = s := by rw [← h]
  rw [readAndClear, h, same]

/-! ### The obligations -/

/-- Settles O27: the step is the tick interrupt, and an unmasked one fires. -/
theorem firedTickWritesTimeAndFlagOnly : Obligations.FiredTickWritesTimeAndFlagOnly := by
  intro s rest pulse unmasked
  rw [step_tickEv pulse, tickInterrupt_fired (s := { s with inputs := rest }) unmasked]

/-- Settles O29: the first call leaves the flag clear, so the second finds nothing to clear. -/
theorem readAndClearReturnsThePairAndClears : Obligations.ReadAndClearReturnsThePairAndClears := by
  intro s
  have second : readAndClear (readAndClear s).2 = ({ time := s.time, updated := false }, (readAndClear s).2) :=
    readAndClear_of_not_updated (s := (readAndClear s).2) rfl
  refine ⟨readAndClear_snapshot s, readAndClear_state s, ?_, ?_⟩
  · rw [second]
  · rw [second]

end Sys2Proof.Machine
end

section
/-! PROOF. The blink overlay in exact integers (spec/42_fade_blink_engine.md rules R174, R175). -/

namespace Sys2Proof.Machine

/-! ### The blink overlay -/

/-- The overlay's comparison of `time mod period` with a channel-width value is that of the exact integers. -/
theorem time_umod_beq_word (t : Time) (period w : Word16) :
    (t % period.setWidth 32 == w.setWidth 32) = (t.toNat % period.toNat == w.toNat) := by
  have value : (w.setWidth 32).toNat = w.toNat := BitVec.toNat_setWidth_of_le (by decide)
  rw [Bool.eq_iff_iff, beq_iff_eq, beq_iff_eq, ← BitVec.toNat_inj, time_umod_toNat, value]

/-- With blinking off there is nothing to refresh. -/
theorem blinkOverlay_off (duty : Word16) (t : Time) :
    blinkOverlay duty 0#16 t = { refresh := false, black := false } := if_pos rfl

/-- With blinking on both answers depend on `time mod period` only, in exact integers. -/
theorem blinkOverlay_on {period : Word16} (duty : Word16) (t : Time) (on : period ≠ 0#16) :
    blinkOverlay duty period t =
      { refresh := t.toNat % period.toNat == 0 || t.toNat % period.toNat == duty.toNat,
        black := t.toNat % period.toNat == duty.toNat } := by
  have atZero : (t % period.setWidth 32 == 0#32) = (t.toNat % period.toNat == 0) := time_umod_beq_word t period 0#16
  simp only [blinkOverlay, if_neg on, atZero, time_umod_beq_word]

/-! ### The obligation -/

/-- Settles O37, by whether blinking is on and, where it is, by the instant `time mod period` stands at. -/
theorem blinkOverlayAtItsTwoInstants : Obligations.BlinkOverlayAtItsTwoInstants := by
  intro duty period t
  refine ⟨fun off => ?_, fun on => ?_⟩
  · rw [off, blinkOverlay_off]
  · rw [blinkOverlay_on duty t on]
    refine ⟨fun atDuty => ?_, fun notDuty atZero => ?_, fun notDuty notZero => ?_⟩
    · rw [beq_iff_eq.mpr atDuty, Bool.or_true]
    · rw [beq_eq_false_iff_ne.mpr notDuty, beq_iff_eq.mpr atZero, Bool.or_false]
    · rw [beq_eq_false_iff_ne.mpr notDuty, beq_eq_false_iff_ne.mpr notZero, Bool.or_false]

end Sys2Proof.Machine
end

section
/-! PROOF. Decode, encode and the integrity gate (spec/30_encoding.md rules R95 to R103). -/

namespace Sys2Proof

/-! ### The trailer -/

/-- The two bytes that enter the check together are the word they make. -/
theorem Word16.xor_bytes (lo hi : Byte) : lo.setWidth 16 ^^^ hi.setWidth 16 <<< 8 = Word16.ofBytes lo hi := by
  apply BitVec.eq_of_getLsbD_eq
  intro k hk
  simp only [Word16.ofBytes, BitVec.getLsbD_xor, BitVec.getLsbD_setWidth, BitVec.getLsbD_shiftLeft, BitVec.getLsbD_append]
  by_cases low : k < 8
  · simp [low, hk]
  · have high : k - 8 < 16 := by omega
    simp [low, hk, high, BitVec.getLsbD_of_ge lo k (by omega)]

/-- The gate opens exactly for the trailer that is the check of what stands before it: the shifts are linear and lose nothing. -/
theorem integrity16_append_eq_residue_iff (setup : List Byte) (lo hi : Byte) :
    integrity16 (setup ++ [lo, hi]) = Config.integrityResidue ↔ Word16.ofBytes lo hi = integrity16 setup := by
  have residue : Config.integrityResidue = crcBits 16 0xFFFF#16 ^^^ 0xFFFF#16 := by decide
  have cancel : ∀ c w : Word16, c ^^^ 0xFFFF#16 ^^^ w = 0xFFFF#16 ↔ w = c := by
    intro c w
    rw [BitVec.xor_assoc, BitVec.xor_comm 0xFFFF#16, ← BitVec.xor_assoc]
    conv => lhs; rhs; rw [← BitVec.zero_xor (x := 0xFFFF#16)]
    rw [BitVec.xor_left_inj, BitVec.xor_eq_zero_iff, eq_comm]
  rw [integrity16_append_two, Word16.xor_bytes, residue, BitVec.xor_left_inj]
  exact Iff.trans ⟨crcBits_injective 16, congrArg (crcBits 16)⟩ (cancel _ _)

theorem integrityOk_iff (bytes : List Byte) : integrityOk bytes = true ↔ integrity16 bytes = Config.integrityResidue :=
  beq_iff_eq

/-- A packet passes the gate exactly when its trailer is the check of its setup packet. -/
theorem integrityOk_bytes_iff (p : Packet) : integrityOk p.bytes = true ↔ p.trailer = integrity16 p.setupBytes := by
  rw [integrityOk_iff, Packet.bytes, integrity16_append_eq_residue_iff, Word16.ofBytes_lo_hi]

/-! ### Decode -/

section

variable {integrity : List Byte → Word16} {bytes : List Byte} {p : Packet} {i : Instr}

/-- Decode of ten bytes, by the packet they hold: the gate, then the opcode. -/
theorem decodeWith_of_packet (fields : Packet.ofBytes bytes = some p) :
    decodeWith integrity bytes =
      if integrityOkWith integrity bytes then dispatchOpcode p.opcode p.value p.index else .dropped := by
  rw [decodeWith, fields]

/-- Past the gate, decode is the opcode map. -/
theorem decodeWith_gate_open (fields : Packet.ofBytes bytes = some p) (opens : integrityOkWith integrity bytes = true) :
    decodeWith integrity bytes = dispatchOpcode p.opcode p.value p.index := by
  rw [decodeWith_of_packet fields, if_pos opens]

/-- A packet that decodes to a command has ten bytes, passes the gate and carries the command's opcode. -/
theorem decodeWith_eq_command (decoded : decodeWith integrity bytes = .command i) :
    ∃ p, Packet.ofBytes bytes = some p ∧ integrityOkWith integrity bytes = true ∧
      dispatchOpcode p.opcode p.value p.index = .command i := by
  match fields : Packet.ofBytes bytes with
  | none => rw [decodeWith, fields] at decoded; cases decoded
  | some p =>
    rw [decodeWith_of_packet fields] at decoded
    split at decoded
    · exact ⟨p, rfl, ‹_›, decoded⟩
    · cases decoded

/-- What has not ten bytes decodes to nothing but its length. -/
theorem decodeWith_of_length_ne (wrong : bytes.length ≠ 10) : decodeWith integrity bytes = .wrongLength bytes.length := by
  match fields : Packet.ofBytes bytes with
  | none => rw [decodeWith, fields]
  | some p => exact absurd (Packet.ofBytes_isSome.mp (by rw [fields]; rfl)) wrong

/-- Ten bytes that fail the gate are dropped. -/
theorem decodeWith_gate_closed (ten : bytes.length = 10) (closed : integrityOkWith integrity bytes = false) :
    decodeWith integrity bytes = .dropped := by
  obtain ⟨p, fields⟩ := Option.isSome_iff_exists.mp (Packet.ofBytes_isSome.mpr ten)
  rw [decodeWith_of_packet fields, if_neg (ne_true_of_eq_false closed)]

end

/-! ### The opcode map -/

/-- Opcodes 0 to 10 are commands, with the operands they read taken from the packet. -/
theorem dispatchOpcode_command {op : Byte} (value index : Word16) (le : op ≤ 10#8) :
    ∃ i : Instr, dispatchOpcode op value index = .command i ∧ i.opcode = op ∧
      i.valueOperand.getD value = value ∧ i.indexOperand.getD index = index := by
  have bound : op.toNat ≤ 10 := le
  have opcode : op = BitVec.ofNat 8 op.toNat := by simp
  generalize op.toNat = n at bound opcode
  subst opcode
  interval_cases n <;> exact ⟨_, rfl, rfl, rfl, rfl⟩

/-- Opcodes 11 to 255 are none. -/
theorem dispatchOpcode_unrecognized {op : Byte} (value index : Word16) (gt : 10#8 < op) :
    dispatchOpcode op value index = .unrecognized op := by
  have bound : 10 < op.toNat := gt
  unfold dispatchOpcode
  split
  case h_12 => rfl
  all_goals omega

/-- A command that comes out of the opcode map is the one of its opcode and operands. -/
theorem dispatchOpcode_eq_command {op : Byte} {value index : Word16} {i : Instr}
    (mapped : dispatchOpcode op value index = .command i) :
    i.opcode = op ∧ i.valueOperand.getD value = value ∧ i.indexOperand.getD index = index := by
  by_cases le : op ≤ 10#8
  · obtain ⟨j, found, fields⟩ := dispatchOpcode_command value index le
    cases found.symm.trans mapped
    exact fields
  · cases (dispatchOpcode_unrecognized value index (BitVec.not_le.mp le)).symm.trans mapped

/-- The opcode map sends every command's opcode and operands back to the command. -/
theorem dispatchOpcode_opcode (i : Instr) (value index : Word16) :
    dispatchOpcode i.opcode (i.valueOperand.getD value) (i.indexOperand.getD index) = .command i := by
  cases i <;> rfl

/-! ### The packet as the transport completes it -/

/-- The packet of a command before its trailer, everything it does not read taken from `spare`. -/
def Spare.packet (spare : Spare) (i : Instr) (trailer : Word16) : Packet :=
  { reqtype := spare.reqtype, opcode := i.opcode, value := i.valueOperand.getD spare.value,
    index := i.indexOperand.getD spare.index, length := spare.length, trailer := trailer }

/-- An encoded command is the bytes of the command's packet with its check as the trailer. -/
theorem encodeWith_eq_bytes (spare : Spare) (i : Instr) :
    encodeWith spare i = (spare.packet i (integrity16 (setupOf spare i))).bytes := rfl

/-- A packet whose trailer is its check is what the transport makes of its setup packet. -/
theorem Packet.bytes_eq_appendTrailer {p : Packet} (trailer : p.trailer = integrity16 p.setupBytes) :
    p.bytes = appendTrailer p.setupBytes := by
  rw [Packet.bytes, appendTrailer, trailer]

/-! ### The obligations -/

/-- Settles O1, one vector after the other. -/
theorem specPacketsDecodeAsListed : Obligations.SpecPacketsDecodeAsListed :=
  ⟨by decide, by decide, by decide, by decide, by decide, by decide, by decide⟩

/-- Settles O2: decode of ten bytes is the gate and then the opcode map, which splits at opcode 10. -/
theorem decodeGatesThenDispatches : Obligations.DecodeGatesThenDispatches := by
  intro integrity b0 b1 b2 b3 b4 b5 b6 b7 b8 b9 pkt
  have ten : pkt.length = 10 := rfl
  have decoded (ok : integrity pkt = 0x4FFE#16) :
      decodeWith integrity pkt = dispatchOpcode b1 (Word16.ofBytes b2 b3) (Word16.ofBytes b4 b5) :=
    decodeWith_gate_open rfl (beq_iff_eq.mpr ok)
  refine ⟨fun bad => decodeWith_gate_closed ten (beq_eq_false_iff_ne.mpr bad), fun ok le => ?_, fun ok gt => ?_⟩
  · obtain ⟨i, found, opcode, value, index⟩ :=
      dispatchOpcode_command (Word16.ofBytes b2 b3) (Word16.ofBytes b4 b5) le
    refine ⟨i, (decoded ok).trans found, opcode, fun v reads => ?_, fun n reads => ?_⟩
    · rw [reads, Option.getD_some] at value
      rw [value, Word16.toNat_ofBytes]
    · rw [reads, Option.getD_some] at index
      rw [index, Word16.toNat_ofBytes]
  · exact (decoded ok).trans (dispatchOpcode_unrecognized _ _ gt)

/-- Settles O3: the encoded bytes hold the command's packet, its trailer opens the gate, and the opcode map gives the command back. -/
theorem decodeOfEncodeGivesTheCommand : Obligations.DecodeOfEncodeGivesTheCommand := by
  intro spare i
  rw [encodeWith_eq_bytes]
  have opens : integrityOk (spare.packet i (integrity16 (setupOf spare i))).bytes = true :=
    (integrityOk_bytes_iff _).mpr rfl
  rw [decode, decodeWith_gate_open (Packet.ofBytes_bytes _) opens]
  exact dispatchOpcode_opcode i spare.value spare.index

/-- Settles O4: the packet's own fields are the content of the ignored ones, and the gate leaves it no other trailer. -/
theorem commandPacketsAreEncodings : Obligations.CommandPacketsAreEncodings := by
  intro bytes i decoded
  obtain ⟨p, fields, opens, mapped⟩ := decodeWith_eq_command decoded
  obtain ⟨opcode, value, index⟩ := dispatchOpcode_eq_command mapped
  have whole : p.bytes = bytes := Packet.bytes_of_ofBytes fields
  have trailer : p.trailer = integrity16 p.setupBytes := (integrityOk_bytes_iff p).mp (by rw [whole]; exact opens)
  refine ⟨{ reqtype := p.reqtype, length := p.length, value := p.value, index := p.index }, ?_⟩
  rw [← whole, Packet.bytes_eq_appendTrailer trailer, encodeWith, setupOf, opcode, value, index]
  rfl

/-- Settles O5: the trailer that passes is the check of the setup packet, and a word is its two bytes. -/
theorem exactlyTheComputedTrailerPasses : Obligations.ExactlyTheComputedTrailerPasses := by
  intro setup lo hi _
  rw [integrityOk_iff, integrity16_append_eq_residue_iff, appendTrailer, List.append_right_inj]
  constructor
  · intro trailer
    rw [← trailer, Word16.lo_ofBytes, Word16.hi_ofBytes]
  · intro same
    simp only [List.cons.injEq, and_true] at same
    rw [same.1, same.2, Word16.ofBytes_lo_hi]

end Sys2Proof
end

section
/-! PROOF. What a command sends, keeps and leaves waiting (spec/40_commands.md rules R121 to R137). -/

namespace Sys2Proof.Machine

/-! ### Frames of a state and of what was sent -/

/-- The register file reads alike where its five parts are alike. -/
theorem State.get_congr {s t : State} (cur : t.cur = s.cur) (tgt : t.tgt = s.tgt) (rate : t.rate = s.rate)
    (duty : t.duty = s.duty) (period : t.period = s.period) (r : Reg) : t.get r = s.get r := by
  cases r <;> simp only [State.get, cur, tgt, rate, duty, period]

/-- What a transaction does with the serializer between `s` and `t`: nothing, or one `RENDER`, which `k` follows. -/
def RendersAtMostOnce (k : AfterRender) (s t : State) : Prop :=
  NothingSent s t ∨ ∃ f, Sent f s t ∧ Awaits k s t

/-- A frame that went out after a while in which nothing was sent went out over the whole time. -/
theorem Sent.after_nothing {f : Frame} {s u t : State} (quiet : NothingSent s u) (grain : u.phased = s.phased)
    (sent : Sent f u t) : Sent f s t := by
  obtain ⟨frames, rest, started⟩ := sent
  exact ⟨by rw [frames, quiet.frames], fun h => rest (grain.trans h), fun h => started (grain.trans h)⟩

theorem Awaits.after_nothing {k : AfterRender} {s u t : State} (quiet : NothingSent s u) (grain : u.phased = s.phased)
    (awaits : Awaits k u t) : Awaits k s t := by
  rwa [Awaits, grain, quiet.afterRender] at awaits

theorem OutsideKept.trans {s u t : State} (h : OutsideKept s u) (h' : OutsideKept u t) : OutsideKept s t :=
  ⟨h'.time.trans h.time, h'.updated.trans h.updated, h'.seq.trans h.seq, h'.respLen.trans h.respLen,
    h'.responses.trans h.responses, h'.inputs.trans h.inputs, h'.phased.trans h.phased⟩

/-! ### `RENDER` and what follows it -/

/-- Stepped phase by phase, `RENDER` blocks its caller: no target is written before it returns. -/
theorem renderThen_tgt_phased {s : State} (v : Rgb) (k : AfterRender) (phased : s.phased = true) :
    (renderThen v k s).tgt = s.tgt := by
  rw [renderThen_phased phased]; exact render_tgt v s

@[simp] theorem renderThen_nothing_tgt (v : Rgb) (s : State) : (renderThen v .nothing s).tgt = s.tgt := by
  cases grain : s.phased
  · rw [renderThen_whole grain]; exact render_tgt v s
  · exact renderThen_tgt_phased v .nothing grain

@[simp] theorem renderThen_nothing_indicator (v : Rgb) (s : State) :
    (renderThen v .nothing s).indicator = s.indicator := by
  cases grain : s.phased
  · rw [renderThen_whole grain]; exact render_indicator v s
  · rw [renderThen_phased grain]; exact render_indicator v s

/-- A waiting `SNAP` is done when its `RENDER` returns. -/
theorem renderReturns_tgt_snap {s : State} (waits : s.afterRender = .snap) : (renderReturns s).tgt = s.cur := by
  rw [renderReturns, waits]; rfl

/-! ### A command as what it writes, and then its `RENDER` if it has one -/

/-- What a command writes before its `RENDER`; all it writes where it has none. -/
def beforeRender (i : Instr) (s : State) : State :=
  match i with
  | .reset => { clearColours s with indicator := false }
  | .commit => { s with indicator := s.status }
  | .setStatus value => { s with status := statusFlag value }
  | .setRed value => setChannel .red value s
  | .setGreen value => setChannel .green value s
  | .setBlue value => setChannel .blue value s
  | .fadeRed value => s.set (.tgt .red) value
  | .fadeGreen value => s.set (.tgt .green) value
  | .fadeBlue value => s.set (.tgt .blue) value
  | .setFadeRate value => if value = 0#16 then snap s else s.set .rate value
  | .setBlink value index => (s.set .duty value).set .period index

/-- What follows the `RENDER` of a command. -/
def afterCommand (i : Instr) : AfterRender := if snapsTargets i then .snap else .nothing

/-- A command whole: its writes, and its `RENDER` of the colour they leave. -/
def commandEnd (i : Instr) (s : State) : State :=
  if rendersFrame i then renderThen (beforeRender i s).cur (afterCommand i) (beforeRender i s) else beforeRender i s

/-- `exec` is `commandEnd`: what every command does, said once. -/
theorem exec_eq (i : Instr) (s : State) : exec i s = .next (commandEnd i s) := by
  cases i with
  | setBlink value index =>
    by_cases off : index = 0#16
    · subst off; rfl
    · have silent : rendersFrame (.setBlink value index) = false := beq_eq_false_iff_ne.mpr off
      rw [commandEnd, silent]
      exact congrArg Host.Outcome.next (if_neg off)
  | _ => rfl

theorem exec_eq_next {i : Instr} {s t : State} (run : exec i s = .next t) : t = commandEnd i s := by
  rw [exec_eq] at run
  cases run
  rfl

theorem commandEnd_renders {i : Instr} (s : State) (renders : rendersFrame i = true) :
    commandEnd i s = renderThen (beforeRender i s).cur (afterCommand i) (beforeRender i s) := if_pos renders

theorem commandEnd_silent {i : Instr} (s : State) (silent : rendersFrame i = false) :
    commandEnd i s = beforeRender i s := if_neg (ne_true_of_eq_false silent)

/-! ### What a command's writes leave -/

/-- Only registers, `status` and `indicator` are written. -/
theorem beforeRender_eq (i : Instr) (s : State) :
    beforeRender i s =
      { s with
        cur := (beforeRender i s).cur, tgt := (beforeRender i s).tgt, rate := (beforeRender i s).rate,
        duty := (beforeRender i s).duty, period := (beforeRender i s).period,
        status := (beforeRender i s).status, indicator := (beforeRender i s).indicator } := by
  cases i with
  | setFadeRate value => by_cases zero : value = 0#16 <;> simp only [beforeRender, zero, if_true, if_false] <;> rfl
  | _ => rfl

theorem beforeRender_nothingSent (i : Instr) (s : State) : NothingSent s (beforeRender i s) := by
  rw [beforeRender_eq]; exact ⟨rfl, rfl, rfl, rfl, rfl, rfl, rfl⟩

theorem beforeRender_outside (i : Instr) (s : State) : OutsideKept s (beforeRender i s) := by
  rw [beforeRender_eq]; exact ⟨rfl, rfl, rfl, rfl, rfl, rfl, rfl⟩

/-- Every snapping command but `COMMIT` leaves the targets at its colour before any `RENDER`. -/
theorem beforeRender_tgt_snapped {i : Instr} {s : State} (snaps : snapsTargets i = true) (other : i ≠ .commit) :
    (beforeRender i s).tgt = (beforeRender i s).cur := by
  cases i with
  | commit => exact absurd rfl other
  | setFadeRate value => rw [beforeRender, if_pos (beq_iff_eq.mp snaps)]; rfl
  | reset => rfl
  | setRed value => rfl
  | setGreen value => rfl
  | setBlue value => rfl
  | _ => cases snaps

theorem beforeRender_cur_kept {i : Instr} (s : State) (keeps : setsCurrent i = false) :
    (beforeRender i s).cur = s.cur := by
  cases i with
  | reset => cases keeps
  | setRed value => cases keeps
  | setGreen value => cases keeps
  | setBlue value => cases keeps
  | setFadeRate value => rw [beforeRender]; split <;> rfl
  | _ => rfl

/-- The writes of a command do not depend on the timer, the inputs to come and the grain. -/
theorem beforeRender_timer (i : Instr) (s : State) (τ : Time) (u : Bool) (l : List Input) (grain : Bool) :
    beforeRender i { s with time := τ, updated := u, inputs := l, phased := grain } =
      { beforeRender i s with time := τ, updated := u, inputs := l, phased := grain } := by
  cases i with
  | setFadeRate value => by_cases zero : value = 0#16 <;> simp only [beforeRender, zero, if_true, if_false] <;> rfl
  | _ => rfl

/-! ### Every command -/

@[simp] theorem commandEnd_cur (i : Instr) (s : State) : (commandEnd i s).cur = (beforeRender i s).cur := by
  rw [commandEnd]; split <;> simp

@[simp] theorem commandEnd_rate (i : Instr) (s : State) : (commandEnd i s).rate = (beforeRender i s).rate := by
  rw [commandEnd]; split <;> simp

@[simp] theorem commandEnd_duty (i : Instr) (s : State) : (commandEnd i s).duty = (beforeRender i s).duty := by
  rw [commandEnd]; split <;> simp

@[simp] theorem commandEnd_period (i : Instr) (s : State) : (commandEnd i s).period = (beforeRender i s).period := by
  rw [commandEnd]; split <;> simp

@[simp] theorem commandEnd_status (i : Instr) (s : State) : (commandEnd i s).status = (beforeRender i s).status := by
  rw [commandEnd]; split <;> simp

/-- No command writes the indicator after its `RENDER`. -/
@[simp] theorem commandEnd_indicator (i : Instr) (s : State) :
    (commandEnd i s).indicator = (beforeRender i s).indicator := by
  rw [commandEnd, afterCommand]; split <;> (try split) <;> simp

/-- The targets of a command that snaps are its colour, unless its `SNAP` still waits for its `RENDER`. -/
theorem commandEnd_tgt_snapped {i : Instr} {s : State} (snaps : snapsTargets i = true)
    (done : s.phased = false ∨ rendersFrame i = false) : (commandEnd i s).tgt = (commandEnd i s).cur := by
  cases renders : rendersFrame i
  · rw [commandEnd_silent s renders]
    exact beforeRender_tgt_snapped snaps (by rintro rfl; cases renders)
  · have untimed : (beforeRender i s).phased = false :=
      (beforeRender_outside i s).phased.trans (done.resolve_right (by simp [renders]))
    rw [commandEnd_cur, commandEnd_renders s renders, afterCommand, if_pos snaps, renderThen_snap_tgt _ untimed]

/-- Stepped phase by phase, a command that renders has written its targets before its `RENDER`. -/
theorem commandEnd_tgt_phased {i : Instr} {s : State} (phased : s.phased = true) :
    (commandEnd i s).tgt = (beforeRender i s).tgt := by
  cases renders : rendersFrame i
  · rw [commandEnd_silent s renders]
  · rw [commandEnd_renders s renders, renderThen_tgt_phased _ _ ((beforeRender_outside i s).phased.trans phased)]

/-- A command that does not snap has written its targets before any `RENDER`. -/
theorem commandEnd_tgt_unsnapped {i : Instr} (s : State) (keeps : snapsTargets i = false) :
    (commandEnd i s).tgt = (beforeRender i s).tgt := by
  rw [commandEnd, afterCommand, keeps]
  split
  · exact renderThen_nothing_tgt _ _
  · rfl

/-- A command that renders sends the frame of the colour it leaves, and its `SNAP`, if any, follows. -/
theorem commandEnd_sent {i : Instr} (s : State) (renders : rendersFrame i = true) :
    Sent (frameOf (commandEnd i s).cur) s (commandEnd i s) ∧ Awaits (afterCommand i) s (commandEnd i s) := by
  have quiet := beforeRender_nothingSent i s
  have grain := (beforeRender_outside i s).phased
  rw [commandEnd_cur, commandEnd_renders s renders]
  exact ⟨.after_nothing quiet grain (renderThen_sent _ _ _), .after_nothing quiet grain (renderThen_awaits _ _ _)⟩

theorem commandEnd_nothingSent {i : Instr} (s : State) (silent : rendersFrame i = false) :
    NothingSent s (commandEnd i s) := by
  rw [commandEnd_silent s silent]
  exact beforeRender_nothingSent i s

theorem commandEnd_renders_once (i : Instr) (s : State) : RendersAtMostOnce (afterCommand i) s (commandEnd i s) := by
  cases renders : rendersFrame i
  · exact .inl (commandEnd_nothingSent s renders)
  · exact .inr ⟨_, commandEnd_sent s renders⟩

theorem commandEnd_outside (i : Instr) (s : State) : OutsideKept s (commandEnd i s) := by
  rw [commandEnd]
  split
  · exact (beforeRender_outside i s).trans (renderThen_outside _ _ _)
  · exact beforeRender_outside i s

/-- No command reads or writes the timer's pair or the inputs to come. -/
theorem commandEnd_timer (i : Instr) (s : State) (τ : Time) (u : Bool) (l : List Input) :
    commandEnd i { s with time := τ, updated := u, inputs := l } =
      { commandEnd i s with time := τ, updated := u, inputs := l } := by
  have writes := beforeRender_timer i s τ u l s.phased
  have kept : { beforeRender i s with time := τ, updated := u, inputs := l, phased := s.phased } =
      { beforeRender i s with time := τ, updated := u, inputs := l } := by
    rw [← (beforeRender_outside i s).phased]
  rw [commandEnd, commandEnd, writes.trans kept]
  split
  · exact renderThen_timer _ _ _ τ u l
  · rfl

/-! ### `COMMIT` twice -/

/-- `COMMIT_BODY()` in the untimed grain, whole. -/
theorem commitBody_whole {s : State} (untimed : s.phased = false) :
    commitBody s =
      snap (serRest { s with indicator := s.status, frames := s.frames ++ [frameOf s.cur] }) := by
  rw [commitBody, renderThen_whole (s := { s with indicator := s.status }) untimed, render,
    emit_whole (s := { s with indicator := s.status }) untimed]
  rfl

/-- `COMMIT_BODY()` in the phased grain, whole. -/
theorem commitBody_phased {s : State} (phased : s.phased = true) :
    commitBody s =
      { serStart (frameOf s.cur) { s with indicator := s.status, frames := s.frames ++ [frameOf s.cur] } with
        afterRender := .snap } := by
  rw [commitBody, renderThen_phased (s := { s with indicator := s.status }) phased, render,
    emit_phased (s := { s with indicator := s.status }) phased]

/-- A second `COMMIT_BODY()` finds everything but the trace as it would leave it. -/
theorem commitBody_commitBody (s : State) :
    commitBody (commitBody s) = { commitBody s with frames := (commitBody s).frames ++ [frameOf s.cur] } := by
  cases grain : s.phased
  · rw [commitBody_whole (s := commitBody s) ((commitBody_outside s).phased.trans grain), commitBody_cur,
      commitBody_status, commitBody_whole grain]
    rfl
  · rw [commitBody_phased (s := commitBody s) ((commitBody_outside s).phased.trans grain), commitBody_cur,
      commitBody_status, commitBody_phased grain]
    rfl

/-! ### The obligations -/

/-- Settles O13: the colours are black before the `RENDER`, so the frame is black and the `SNAP` changes nothing. -/
theorem resetClearsColoursAndSendsBlack : Obligations.ResetClearsColoursAndSendsBlack := by
  intro s
  have black : (commandEnd .reset s).tgt = Rgb.black := by
    cases grain : s.phased
    · exact (commandEnd_tgt_snapped rfl (.inl grain)).trans (commandEnd_cur .reset s)
    · exact commandEnd_tgt_phased grain
  have sent : Sent 0x000000#24 s (commandEnd .reset s) := by
    have := (commandEnd_sent s (i := .reset) rfl).1
    rwa [commandEnd_cur, show (beforeRender .reset s).cur = Rgb.black from rfl, frameOf_black] at this
  exact ⟨commandEnd .reset s, exec_eq .reset s, commandEnd_cur .reset s, black, commandEnd_status .reset s,
    commandEnd_indicator .reset s, sent, commandEnd_rate .reset s, commandEnd_duty .reset s,
    commandEnd_period .reset s, commandEnd_outside .reset s⟩

/-- Settles O15: the second `COMMIT_BODY()` differs from the first in the trace alone. -/
theorem commitTwiceSendsTheSameFrame : Obligations.CommitTwiceSendsTheSameFrame := by
  intro s t run
  cases run
  refine ⟨commitBody (commitBody s), exec_commit _, ?_, ?_⟩
  · rw [commitBody_commitBody]
  · rw [commitBody_commitBody]

/-- Settles O20: `SET_BLINK` writes two registers, and whether it renders is whether `index` is 0. -/
theorem setBlinkStoresAndRendersAtZero : Obligations.SetBlinkStoresAndRendersAtZero := by
  intro s value index
  have tgt : (commandEnd (.setBlink value index) s).tgt = s.tgt := commandEnd_tgt_unsnapped s rfl
  have sent : SentIf (index == 0#16) (frameOf s.cur) s (commandEnd (.setBlink value index) s) := by
    rw [SentIf]
    split
    next off => exact commandEnd_cur (.setBlink value index) s ▸ (commandEnd_sent s (i := .setBlink value index) off).1
    next on => exact commandEnd_nothingSent s (eq_false_of_ne_true on)
  exact ⟨commandEnd (.setBlink value index) s, exec_eq _ s, commandEnd_duty _ s, commandEnd_period _ s, sent,
    commandEnd_cur _ s, tgt, commandEnd_rate _ s, commandEnd_status _ s, commandEnd_indicator _ s,
    commandEnd_outside _ s⟩

/-- Settles O22: whether a command renders is `rendersFrame`, and before its `RENDER` `COMMIT` writes the indicator alone. -/
theorem commandsRenderInExactlyThreeCases : Obligations.CommandsRenderInExactlyThreeCases := by
  intro i s t run
  obtain rfl := exec_eq_next run
  refine ⟨commandEnd_sent s, commandEnd_nothingSent s, ?_⟩
  rintro rfl phased
  exact ⟨commandEnd_indicator .commit s,
    State.get_congr (commandEnd_cur .commit s) (commandEnd_tgt_phased phased) (commandEnd_rate .commit s)
      (commandEnd_duty .commit s) (commandEnd_period .commit s)⟩

/-- Settles O24: the timer's pair passes through every command unread. -/
theorem commandsNeitherReadNorWriteTheTimer : Obligations.CommandsNeitherReadNorWriteTheTimer := by
  intro i s τ u
  have outside := commandEnd_outside i s
  refine ⟨commandEnd i s, exec_eq i s, outside.time, outside.updated, ?_⟩
  have differs := commandEnd_timer i s τ u s.inputs
  rw [exec_eq, differs, ← outside.inputs]

/-- Settles O26: `RESET` leaves black colours, and the other two commands write the three registers it keeps. -/
theorem threeCommandsRestoreDeviceState : Obligations.ThreeCommandsRestoreDeviceState := by
  intro s
  obtain ⟨t, reset, cur, tgt, status, -, -, rate, duty, period, outside⟩ := resetClearsColoursAndSendsBlack s
  obtain ⟨v, blinkOff, vduty, vperiod, -, vcur, vtgt, vrate, vstatus, -, -⟩ :=
    setBlinkStoresAndRendersAtZero { t with rate := 256#16 } 0#16 0#16
  have setRate : exec (.setFadeRate 256#16) t = .next { t with rate := 256#16 } :=
    (setFadeRateStoresOrSnaps t 256#16).1 (by decide)
  exact ⟨t, _, v, reset, setRate, blinkOff, rate, duty, period, outside.time,
    State.get_congr (s := State.reset) (vcur.trans cur) (vtgt.trans tgt) vrate vduty vperiod, vstatus.trans status⟩

end Sys2Proof.Machine
end

section
/-! PROOF. The engine pass: fade, overlay, render decision, heartbeat (spec/42_fade_blink_engine.md rules R171 to R179), and what it
makes of a command's colours (spec/40_commands.md rule R137, spec/70_reset_and_hazards.md rule R264). -/

namespace Sys2Proof.Machine

/-! ### `changed` -/

theorem changedFlag_eq_false_iff {cur tgt : Rgb} : changedFlag cur tgt = false ↔ cur = tgt := by
  simp [changedFlag, Rgb.ext_iff, and_assoc]

theorem changedFlag_iff_ne {cur tgt : Rgb} : changedFlag cur tgt = true ↔ cur ≠ tgt := by
  rw [← Bool.not_eq_false, ne_eq, changedFlag_eq_false_iff]

theorem Rgb.ne_iff {v w : Rgb} : v ≠ w ↔ ∃ c, v.get c ≠ w.get c := by
  rw [← not_iff_not, not_not, not_exists_not]
  exact ⟨fun same c => congrArg (Rgb.get · c) same, Rgb.ext_get⟩

/-! ### The fade step -/

/-- With `rate > 0` only a channel at its target stays. -/
theorem fadeChannel_eq_self_iff {rate cur tgt : Word16} (moves : rate ≠ 0#16) :
    fadeChannel rate cur tgt = cur ↔ cur = tgt := by
  obtain ⟨-, up, down⟩ := fadeChannel_toNat rate cur tgt
  have pos : rate.toNat ≠ 0 := fun zero => moves (BitVec.eq_of_toNat_eq zero)
  constructor
  · intro stays
    rw [stays] at up down
    exact BitVec.eq_of_toNat_eq (by omega)
  · rintro rfl
    exact fadeChannel_self rate cur

/-- With `rate > 0` the fade step changes the colour exactly where it is not the target. -/
theorem fadeRgb_eq_self_iff {rate : Word16} {cur tgt : Rgb} (moves : rate ≠ 0#16) :
    fadeRgb rate cur tgt = cur ↔ cur = tgt := by
  rw [Rgb.ext_iff, Rgb.ext_iff]
  exact and_congr (fadeChannel_eq_self_iff moves)
    (and_congr (fadeChannel_eq_self_iff moves) (fadeChannel_eq_self_iff moves))

/-- With no fade left an engine pass moves no channel. -/
theorem engine_cur_of_settled {s : State} (τ : Time) (settled : s.tgt = s.cur) : (engine τ s).cur = s.cur := by
  rw [engine_cur, settled, fadeRgb_self]

/-! ### What an engine pass sends -/

theorem fadeStep_nothingSent (s : State) : NothingSent s (fadeStep s) := ⟨rfl, rfl, rfl, rfl, rfl, rfl, rfl⟩

/-- A pass that sends a frame sends that of `engineColour`, and its heartbeat follows. -/
theorem engine_sent {τ : Time} {s : State} (sends : engineSends τ s = true) :
    Sent (frameOf (engineColour τ s)) s (engine τ s) ∧ Awaits (.heartbeat τ) s (engine τ s) := by
  rw [engine_sends sends]
  exact ⟨.after_nothing (fadeStep_nothingSent s) rfl (renderThen_sent _ _ _),
    .after_nothing (fadeStep_nothingSent s) rfl (renderThen_awaits _ _ _)⟩

theorem engine_nothingSent {τ : Time} {s : State} (silent : engineSends τ s = false) : NothingSent s (engine τ s) := by
  rw [engine_silent silent]
  exact ⟨rfl, rfl, rfl, rfl, rfl, rfl, rfl⟩

theorem engine_renders_once (τ : Time) (s : State) : RendersAtMostOnce (.heartbeat τ) s (engine τ s) := by
  cases sends : engineSends τ s
  · exact .inl (engine_nothingSent sends)
  · exact .inr ⟨_, engine_sent sends⟩

theorem engine_outside (τ : Time) (s : State) : OutsideKept s (engine τ s) :=
  ⟨engine_time τ s, engine_updated τ s, engine_seq τ s, engine_respLen τ s, engine_responses τ s, engine_inputs τ s,
    engine_phased τ s⟩

/-- A pass whose overlay is not black sends its own colour. -/
theorem engineColour_shown {τ : Time} {s : State} (shown : (blinkOverlay s.duty s.period τ).black = false) :
    engineColour τ s = (engine τ s).cur := by
  rw [engineColour, if_neg (ne_true_of_eq_false shown), engine_cur]

theorem engineColour_black {τ : Time} {s : State} (black : (blinkOverlay s.duty s.period τ).black = true) :
    engineColour τ s = Rgb.black := if_pos black

/-- The overlay is black only at an instant that refreshes. -/
theorem blinkOverlay_black_refreshes {duty period : Word16} {t : Time} (black : (blinkOverlay duty period t).black = true) :
    (blinkOverlay duty period t).refresh = true := by
  by_cases off : period = 0#16
  · rw [off, blinkOverlay_off] at black
    cases black
  · rw [blinkOverlay_on duty t off] at black ⊢
    exact (congrArg (_ || ·) black).trans (Bool.or_true _)

/-! ### The heartbeat -/

/-- The heartbeat's comparisons in exact integers. -/
theorem heartbeatFlag_eq (t : Time) (indicator : Bool) :
    heartbeatFlag t indicator =
      if t.toNat % 1000 = 0 then true else if t.toNat % 1000 = 10 then false else indicator := by
  have rises : t % Config.heartbeatPeriod = 0#32 ↔ t.toNat % 1000 = 0 := time_heartbeat_iff t (by omega)
  have falls : t % Config.heartbeatPeriod = Config.heartbeatOff ↔ t.toNat % 1000 = 10 := time_heartbeat_iff t (by omega)
  simp only [heartbeatFlag, rises, falls]

/-! ### The obligations -/

/-- Settles O23: after a snapping command, and its `RENDER` if it waits for one, the engine finds every channel at its target. -/
theorem snappingCommandsLeaveNoFade : Obligations.SnappingCommandsLeaveNoFade := by
  intro i s t run
  obtain rfl := exec_eq_next run
  have outside := commandEnd_outside i s
  refine ⟨fun snaps => ⟨fun done => ?_, fun phased renders => ?_⟩, fun keeps => ?_, outside.time, outside.updated⟩
  · have settled := commandEnd_tgt_snapped snaps done
    exact ⟨settled, fun τ => engine_cur_of_settled τ settled⟩
  · have waits : (commandEnd i s).afterRender = .snap := by
      have awaits := (commandEnd_sent s renders).2
      rwa [Awaits, if_pos phased, afterCommand, if_pos snaps] at awaits
    have settled := renderReturns_tgt_snap waits
    have cur := renderReturns_cur (commandEnd i s)
    exact ⟨settled, fun τ => (engine_cur_of_settled τ (settled.trans cur.symm)).trans cur⟩
  · rw [commandEnd_cur]
    exact beforeRender_cur_kept s keeps

/-- Settles O25: the command does not render, and the engine finds no fade and no refresh. -/
theorem settingAColourDoesNotShowIt : Obligations.SettingAColourDoesNotShowIt := by
  intro s value τ i isSet off
  have silent : rendersFrame i = false := by rcases isSet with rfl | rfl | rfl <;> rfl
  have snaps : snapsTargets i = true := by rcases isSet with rfl | rfl | rfl <;> rfl
  have period : (commandEnd i s).period = 0#16 := by
    rw [commandEnd_period, ← off]; rcases isSet with rfl | rfl | rfl <;> rfl
  have quiet : engineSends τ (commandEnd i s) = false := by
    rw [engineSends, commandEnd_tgt_snapped snaps (.inr silent), changedFlag_self, period, blinkOverlay_off]
    rfl
  exact ⟨commandEnd i s, exec_eq i s, commandEnd_nothingSent s silent, engine_nothingSent quiet⟩

/-- Settles O35, channel by channel from the exact form of the fade step. -/
theorem fadeStepMovesByAtMostRate : Obligations.FadeStepMovesByAtMostRate := by
  intro s τ
  refine ⟨fun c => ?_, changedFlag_iff_ne.trans Rgb.ne_iff⟩
  obtain ⟨stays, up, down⟩ := fadeChannel_toNat s.rate (s.cur.get c) (s.tgt.get c)
  rw [engine_cur, fadeRgb_get]
  refine ⟨stays, fun below => ⟨up below, ?_⟩, fun above => ⟨down above, ?_⟩⟩
  · rw [up below]; omega
  · rw [down above]; omega

/-- Settles O36: with `rate > 0` the fade step leaves a colour alone only at its target. -/
theorem changedMeansAChannelMoves : Obligations.ChangedMeansAChannelMoves := by
  intro s τ moves
  rw [changedFlag_iff_ne, engine_cur, ne_eq, ne_eq, fadeRgb_eq_self_iff moves]

/-- Settles O38: a remainder is below its period, so it meets `duty` at 0 alone, or never. -/
theorem blinkCornersOfDuty : Obligations.BlinkCornersOfDuty := by
  intro duty period t on
  have pos : 0 < period.toNat := Nat.pos_of_ne_zero fun zero => on (BitVec.eq_of_toNat_eq zero)
  have below : t.toNat % period.toNat < period.toNat := Nat.mod_lt _ pos
  rw [blinkOverlay_on duty t on]
  refine ⟨?_, fun beyond => ?_, ?_⟩
  · rintro rfl
    exact congrArg (Overlay.mk · _) (Bool.or_self _)
  · have le : period.toNat ≤ duty.toNat := beyond
    have never : (t.toNat % period.toNat == duty.toNat) = false := beq_eq_false_iff_ne.mpr (by omega)
    rw [never, Bool.or_false]
  · rintro rfl
    have zero : t.toNat % (1#16).toNat = 0 := Nat.mod_one _
    rw [zero]
    rfl

/-- Settles O39, by `changed` and the overlay's two answers. -/
theorem engineRendersByTheDecisionTable : Obligations.EngineRendersByTheDecisionTable := by
  intro s τ changed o
  have sends : engineSends τ s = (changed || o.refresh) := rfl
  refine ⟨fun same quiet => ?_, fun differs quiet => ?_, fun refresh shown => ?_, fun refresh black => ?_⟩
  · exact engine_nothingSent (by rw [sends, same, quiet]; rfl)
  · have shown : o.black = false := by
      by_contra black
      exact absurd (blinkOverlay_black_refreshes (eq_true_of_ne_false black)) (ne_true_of_eq_false quiet)
    rw [← engineColour_shown shown]
    exact (engine_sent (by rw [sends, differs, quiet]; rfl)).1
  · rw [← engineColour_shown shown]
    exact (engine_sent (by rw [sends, refresh, Bool.or_true])).1
  · rw [← frameOf_black, ← engineColour_black black]
    exact (engine_sent (by rw [sends, refresh, Bool.or_true])).1

/-- Settles O40: the heartbeat's three cases, and that a pass does it at its end or leaves it for the return of its `RENDER`. -/
theorem heartbeatPulsesTheIndicator : Obligations.HeartbeatPulsesTheIndicator := by
  intro s τ
  refine ⟨fun rises => ?_, fun falls => ?_, fun notRise notFall => ?_, fun done => ?_, fun phased sends => ?_⟩
  · rw [heartbeat, heartbeatFlag_eq, if_pos rises]
  · rw [heartbeat, heartbeatFlag_eq, if_neg (by omega), if_pos falls]
  · rw [heartbeat, heartbeatFlag_eq, if_neg notRise, if_neg notFall]
  · exact (engine_indicator done.symm).1
  · obtain ⟨kept, waits⟩ := engine_indicator_waits sends phased
    refine ⟨kept, waits, ?_⟩
    rw [renderReturns, waits]
    exact congrArg (heartbeatFlag τ) kept

/-- Settles O41. -/
theorem engineFrame : Obligations.EngineFrame := by
  intro s τ
  exact ⟨engine_tgt τ s, engine_rate τ s, engine_duty τ s, engine_period τ s, engine_status τ s, engine_outside τ s,
    engine_renders_once τ s⟩

end Sys2Proof.Machine
end

section
/-! PROOF. Transactions: what a packet or a poll does between the opening and the end of its transaction (spec/40_commands.md rules
R120, R132, R134, spec/42_fade_blink_engine.md rule R170, spec/60_exceptions.md rules R220, R223). -/

namespace Sys2Proof.Machine

theorem nothingSent_refl (s : State) : NothingSent s s := ⟨rfl, rfl, rfl, rfl, rfl, rfl, rfl⟩

theorem outsideKept_refl (s : State) : OutsideKept s s := ⟨rfl, rfl, rfl, rfl, rfl, rfl, rfl⟩

/-! ### The serializer over a transaction -/

namespace RendersAtMostOnce

variable {k : AfterRender} {s u : State}

theorem frames (once : RendersAtMostOnce k s u) : u.frames = s.frames ∨ ∃ f, u.frames = s.frames ++ [f] := by
  rcases once with quiet | ⟨f, ⟨frames, -, -⟩, -⟩
  · exact .inl quiet.frames
  · exact .inr ⟨f, frames⟩

/-- In the untimed grain a `RENDER` leaves an idle serializer idle and nothing waiting. -/
theorem untimed (once : RendersAtMostOnce k s u) (grain : s.phased = false) :
    (s.serState = .idle → u.serState = .idle) ∧ (s.irqMask = false → u.irqMask = false) ∧
      u.afterRender = s.afterRender := by
  rcases once with quiet | ⟨f, ⟨-, rest, -⟩, awaits⟩
  · exact ⟨quiet.serState.trans, quiet.irqMask.trans, quiet.afterRender⟩
  · have atRest := rest grain
    rw [Awaits, grain] at awaits
    exact ⟨fun _ => atRest.serState, fun _ => atRest.irqMask, awaits⟩

/-- From a serializer at rest: it is at rest again, or, stepped phase by phase, at a frame's start with `k` waiting. -/
theorem rest_or_started (once : RendersAtMostOnce k s u) (rest : s.SerIdle) (nothing : s.afterRender = .nothing) :
    (u.SerIdle ∧ u.afterRender = .nothing) ∨ (s.phased = true ∧ ∃ f, u.SerStarted f ∧ u.afterRender = k) := by
  rcases once with quiet | ⟨f, ⟨-, whole, started⟩, awaits⟩
  · exact .inl ⟨⟨quiet.serState.trans rest.serState, quiet.shreg.trans rest.shreg, quiet.bitcnt.trans rest.bitcnt,
      quiet.irqMask.trans rest.irqMask, quiet.ledDout.trans rest.ledDout⟩, quiet.afterRender.trans nothing⟩
  · cases grain : s.phased
    · rw [Awaits, grain] at awaits
      exact .inl ⟨whole grain, awaits.trans nothing⟩
    · rw [Awaits, grain] at awaits
      exact .inr ⟨rfl, f, started grain, awaits⟩

end RendersAtMostOnce

/-! ### What an open transaction does before its end -/

/-- What the open transaction of `s` has done in `u`, where it ends or waits for its `RENDER`, which `k` follows. -/
structure Transacts (k : AfterRender) (s u : State) : Prop where
  renders : RendersAtMostOnce k s u
  outside : OutsideKept s u
  rate : s.rate ≠ 0#16 → u.rate ≠ 0#16
  snap : k = .snap → s.seq = .cmd
  heartbeat : ∀ τ, k = .heartbeat τ → s.seq = .poll

theorem transacts_nothing (s : State) : Transacts .nothing s s :=
  ⟨.inl (nothingSent_refl s), outsideKept_refl s, id, nofun, nofun⟩

theorem afterCommand_ne_heartbeat (i : Instr) (τ : Time) : afterCommand i ≠ .heartbeat τ := by
  rw [afterCommand]; split <;> nofun

/-- No command stores the rate 0. -/
theorem beforeRender_rate_ne_zero (i : Instr) {s : State} (pos : s.rate ≠ 0#16) : (beforeRender i s).rate ≠ 0#16 := by
  cases i with
  | setFadeRate value =>
    rw [beforeRender]
    split
    · exact pos
    next nonzero => exact nonzero
  | _ => exact pos

theorem transacts_command (i : Instr) {s : State} (isCommand : s.seq = .cmd) :
    Transacts (afterCommand i) s (commandEnd i s) :=
  ⟨commandEnd_renders_once i s, commandEnd_outside i s, fun pos => commandEnd_rate i s ▸ beforeRender_rate_ne_zero i pos,
    fun _ => isCommand, fun τ waits => absurd waits (afterCommand_ne_heartbeat i τ)⟩

theorem transacts_engine (τ : Time) {s : State} (isPoll : s.seq = .poll) : Transacts (.heartbeat τ) s (engine τ s) :=
  ⟨engine_renders_once τ s, engine_outside τ s, fun pos => (engine_rate τ s).symm ▸ pos, nofun, fun _ _ => isPoll⟩

/-! ### The command transaction -/

section

variable {integrity : List Byte → Word16} {bytes : List Byte} {s t : State}

/-- A command transaction runs its command, or nothing, and ends. -/
theorem runCommandWith_transacts (run : runCommandWith integrity bytes s = .next t) :
    ∃ k u, Transacts k { s with seq := .cmd } u ∧ t = endTransaction u := by
  rcases runCommandWith_cases run with ⟨i, u, -, ran, ends⟩ | ⟨-, ends⟩
  · exact ⟨afterCommand i, u, exec_eq_next ran ▸ transacts_command i rfl, ends⟩
  · exact ⟨.nothing, _, transacts_nothing _, ends⟩

/-- The end of a command transaction with the serializer idle answers 0 and frees the port. -/
theorem endTransaction_answers (idle : s.serState = .idle) (isCommand : s.seq = .cmd) :
    (endTransaction s).respLen = 0#8 ∧ (endTransaction s).responses = s.responses ++ [0#8] ∧
      (endTransaction s).cmdReady = true := by
  have busy : (renderReturns s).seq = .cmd := (renderReturns_seq s).trans isCommand
  rw [endTransaction_idle idle, closeTransaction, busy]
  exact ⟨rfl, congrArg (· ++ [0#8]) (renderReturns_responses s), rfl⟩

/-- In the untimed grain every packet of ten bytes is answered 0, once, and the port is free again. -/
theorem stepWith_answers {rest : List Input} (next : s.inputs = .packet bytes :: rest) (isIdle : s.seq = .idle)
    (idle : s.serState = .idle) (grain : s.phased = false) (ten : bytes.length = 10) :
    ∃ t, stepWith integrity s = .next t ∧
      t.respLen = 0#8 ∧ t.responses = s.responses ++ [0#8] ∧ t.cmdReady = true := by
  obtain ⟨t, run⟩ := runCommandWith_next (integrity := integrity) (s := { s with inputs := rest }) ten
  obtain ⟨k, u, transacts, rfl⟩ := runCommandWith_transacts run
  obtain ⟨respLen, responses, ready⟩ :=
    endTransaction_answers ((transacts.renders.untimed grain).1 idle) transacts.outside.seq
  rw [transacts.outside.responses] at responses
  exact ⟨_, (stepWith_packet_idle next isIdle).trans run, respLen, responses, ready⟩

/-- A packet that carries no command changes nothing but the answer. -/
theorem stepWith_no_command {rest : List Input} (next : s.inputs = .packet bytes :: rest) (isIdle : s.seq = .idle)
    (idle : s.serState = .idle) (nothing : s.afterRender = .nothing)
    (decoded : decodeWith integrity bytes = .dropped ∨ ∃ op, decodeWith integrity bytes = .unrecognized op) :
    stepWith integrity s = .next { s with inputs := rest, respLen := 0#8, responses := s.responses ++ [0#8] } := by
  have run : runCommandWith integrity bytes { s with inputs := rest } =
      .next (endTransaction { s with inputs := rest, seq := .cmd }) := by
    rcases decoded with dropped | ⟨op, unrecognized⟩
    · exact runCommandWith_dropped dropped
    · exact runCommandWith_unrecognized unrecognized
  have ends := endTransaction_cmd (s := { s with inputs := rest, seq := .cmd }) idle nothing rfl
  rw [stepWith_packet_idle next isIdle, run, ends, ← isIdle]

/-- What has not ten bytes is refused. -/
theorem stepWith_wrong_length {rest : List Input} (next : s.inputs = .packet bytes :: rest) (isIdle : s.seq = .idle)
    (wrong : bytes.length ≠ 10) : stepWith integrity s = .refused (.packetLength bytes.length) := by
  rw [stepWith_packet_idle next isIdle, runCommandWith, decodeWith_of_length_ne wrong]

/-- A packet that decodes to a command runs it. -/
theorem stepWith_command {i : Instr} {rest : List Input} (next : s.inputs = .packet bytes :: rest)
    (isIdle : s.seq = .idle) (decoded : decodeWith integrity bytes = .command i) :
    ∃ t, exec i { s with inputs := rest, seq := .cmd } = .next t ∧ stepWith integrity s = .next (endTransaction t) := by
  obtain ⟨t, ran⟩ := exec_next i { s with inputs := rest, seq := .cmd }
  exact ⟨t, ran, (stepWith_packet_idle next isIdle).trans (runCommandWith_command decoded ran)⟩

end

/-! ### The poll -/

/-- A poll, with or without a compare-match in the cycle of its READ_AND_CLEAR, runs the engine, or nothing, and ends. -/
theorem runPoll_transacts (s : State) :
    ∃ k u, Transacts k { s with seq := .poll, updated := false } u ∧ runPoll s = endTransaction u := by
  cases flag : s.updated
  · exact ⟨.nothing, _, transacts_nothing _, runPoll_clear flag⟩
  · exact ⟨_, _, transacts_engine s.time rfl, runPoll_set flag⟩

theorem runPollTick_transacts (s : State) :
    ∃ k u, Transacts k (tickInterrupt { s with seq := .poll, updated := false }) u ∧
      runPollTick s = endTransaction u := by
  cases flag : s.updated
  · exact ⟨.nothing, _, transacts_nothing _, runPollTick_clear flag⟩
  · exact ⟨_, _, transacts_engine s.time (tickInterrupt_seq _), runPollTick_set flag⟩

/-- A poll at rest that finds the flag clear changes nothing. -/
theorem runPoll_idle {s : State} (flag : s.updated = false) (isIdle : s.seq = .idle) (idle : s.serState = .idle)
    (nothing : s.afterRender = .nothing) : runPoll s = s := by
  have ends := endTransaction_poll (s := { s with seq := .poll, updated := false }) idle nothing rfl
  rw [runPoll_clear flag, ends, ← flag, ← isIdle]

/-! ### The obligations -/

/-- Settles O6. -/
theorem stepRunsTheDecodedCommand : Obligations.StepRunsTheDecodedCommand :=
  ⟨fun _ _ _ _ next isIdle => ⟨stepWith_command next isIdle, fun _ => stepWith_command next isIdle⟩, step_eq⟩

/-- Settles O7: the packet of the table word stands first at an idle sequencer. -/
theorem tableWordRunsNext : Obligations.TableWordRunsNext := by
  intro s nbits w i read
  have decoded : decode (tablePacket nbits w) = .command i := by
    rw [decodeTableWord] at read
    split at read
    next j found => cases read; exact found
    all_goals cases read
  exact stepWith_command (s := s.withFetchWord nbits w) rfl rfl decoded

/-- Settles O8: a closed gate is a packet without a command. -/
theorem droppedPacketChangesNothing : Obligations.DroppedPacketChangesNothing := by
  intro s bytes rest next isIdle idle nothing ten
  have dropped : ∀ integrity : List Byte → Word16, integrityOkWith integrity bytes = false →
      stepWith integrity s = .next { s with inputs := rest, respLen := 0#8, responses := s.responses ++ [0#8] } :=
    fun _ closed => stepWith_no_command next isIdle idle nothing (.inl (decodeWith_gate_closed ten closed))
  exact ⟨dropped integrity16, dropped⟩

/-- Settles O9: an opcode above 10 is a packet without a command. -/
theorem unrecognisedOpcodeChangesNothing : Obligations.UnrecognisedOpcodeChangesNothing := by
  intro s b0 b1 b2 b3 b4 b5 b6 b7 b8 b9 rest pkt next isIdle idle nothing above
  have unrecognised : ∀ integrity : List Byte → Word16, integrityOkWith integrity pkt = true →
      stepWith integrity s = .next { s with inputs := rest, respLen := 0#8, responses := s.responses ++ [0#8] } :=
    fun _ opens => stepWith_no_command next isIdle idle nothing
      (.inr ⟨b1, (decodeWith_gate_open rfl opens).trans (dispatchOpcode_unrecognized _ _ above)⟩)
  exact ⟨unrecognised integrity16, unrecognised⟩

/-- Settles O10: both packets are answered as every packet of ten bytes is. -/
theorem portAnswersEveryPacketAlike : Obligations.PortAnswersEveryPacketAlike := by
  intro s p q rest isIdle idle grain tenP tenQ alike
  have every : ∀ integrity : List Byte → Word16, alike (stepWith integrity) := by
    intro integrity
    obtain ⟨t, runT, respT, answersT, readyT⟩ := stepWith_answers (integrity := integrity)
      (s := { s with inputs := .packet p :: rest }) rfl isIdle idle grain tenP
    obtain ⟨u, runU, respU, answersU, readyU⟩ := stepWith_answers (integrity := integrity)
      (s := { s with inputs := .packet q :: rest }) rfl isIdle idle grain tenQ
    exact ⟨t, u, runT, runU, respT, respU, answersT, answersU.trans answersT.symm, readyT, readyU⟩
  exact ⟨every integrity16, every⟩

/-- Settles O11. -/
theorem wrongLengthPacketIsRefused : Obligations.WrongLengthPacketIsRefused :=
  fun _ _ _ next isIdle wrong => stepWith_wrong_length next isIdle wrong

/-- Settles O34: a poll, asked for or not, is `runPoll`, and at rest it does nothing with the flag clear. -/
theorem pollRunsTheEngineOncePerFlag : Obligations.PollRunsTheEngineOncePerFlag := by
  intro s rest next isIdle idle nothing
  have polls : step s = .next (runPoll { s with inputs := rest }) := by
    rcases next with next | ⟨none, rfl⟩
    · exact step_poll_idle next isIdle
    · rw [step_nil_idle none isIdle, ← none]
  refine ⟨fun flag => ?_, fun flag => ?_⟩
  · rw [polls, runPoll_idle (s := { s with inputs := rest }) flag isIdle idle nothing]
  · rw [polls, runPoll_set (s := { s with inputs := rest }) flag]

end Sys2Proof.Machine
end

section
/-! PROOF. The invariant, and what a step can do (spec/10_state.md rules R24, R31, R37, R38, R40, R46, spec/20_memory.md rules R70,
R78, spec/43_led_serializer.md rules R190, R200). -/

namespace Sys2Proof.Machine

/-! ### Steps as transactions, phases and the environment's own inputs -/

/-- `u` is `s` with a transaction opened: an input taken, the timer's pair read and perhaps ticked. -/
def Opens (s u : State) : Prop :=
  ∃ (τ : Time) (flag : Bool) (x : SeqState) (l : List Input),
    x ≠ .idle ∧ u = { s with time := τ, updated := flag, seq := x, inputs := l }

theorem opens_command (s : State) (l : List Input) : Opens s { s with inputs := l, seq := .cmd } :=
  ⟨s.time, s.updated, .cmd, l, nofun, rfl⟩

theorem opens_poll (s : State) (l : List Input) : Opens s { s with inputs := l, seq := .poll, updated := false } :=
  ⟨s.time, false, .poll, l, nofun, rfl⟩

theorem opens_pollTick (s : State) (l : List Input) :
    Opens s (tickInterrupt { s with inputs := l, seq := .poll, updated := false }) := by
  rw [tickInterrupt]
  split
  · exact opens_poll s l
  · exact ⟨s.time + 1#32, true, .poll, l, nofun, rfl⟩

/-- Everything a step can do: a tick, a phase, nothing, a power-on reset, or a transaction. -/
theorem stepWith_transacts {integrity : List Byte → Word16} {s t : State} (run : stepWith integrity s = .next t) :
    (∃ l, t = tickInterrupt { s with inputs := l }) ∨
    (∃ l, t = advancePhase { s with inputs := l }) ∨
    (∃ l, t = { s with inputs := l }) ∨
    (∃ l, s.inputs = .powerOn :: l ∧ t = powerOn { s with inputs := l }) ∨
    (s.seq = .idle ∧ ∃ k v u, Opens s v ∧ Transacts k v u ∧ t = endTransaction u) := by
  rcases stepWith_cases run with ⟨l, -, rfl⟩ | ⟨l, -, rfl⟩ | ⟨l, -, rfl⟩ | ⟨l, next, rfl⟩ | ⟨-, -, rfl⟩ |
    ⟨isIdle, bytes, l, -, ran⟩ | ⟨isIdle, l, -, rfl⟩ | ⟨isIdle, l, -, rfl⟩
  · exact .inl ⟨l, rfl⟩
  · exact .inr (.inl ⟨l, rfl⟩)
  · exact .inr (.inr (.inl ⟨l, rfl⟩))
  · exact .inr (.inr (.inr (.inl ⟨l, next, rfl⟩)))
  · exact .inr (.inl ⟨s.inputs, rfl⟩)
  · obtain ⟨k, u, transacts, ends⟩ := runCommandWith_transacts ran
    exact .inr (.inr (.inr (.inr ⟨isIdle, k, _, u, opens_command s l, transacts, ends⟩)))
  · obtain ⟨k, u, transacts, ends⟩ := runPoll_transacts { s with inputs := l }
    exact .inr (.inr (.inr (.inr ⟨isIdle, k, _, u, opens_poll s l, transacts, ends⟩)))
  · obtain ⟨k, u, transacts, ends⟩ := runPollTick_transacts { s with inputs := l }
    exact .inr (.inr (.inr (.inr ⟨isIdle, k, _, u, opens_pollTick s l, transacts, ends⟩)))

section

variable {integrity : List Byte → Word16} {s : State} {rest : List Input}

theorem stepWith_busReset (next : s.inputs = .busReset :: rest) :
    stepWith integrity s = .next { s with inputs := rest } := by
  rw [stepWith, next]

theorem stepWith_powerOn (next : s.inputs = .powerOn :: rest) :
    stepWith integrity s = .next (powerOn { s with inputs := rest }) := by
  rw [stepWith, next]

/-- Only an idle sequencer takes a packet, and nothing else is ever refused. -/
theorem stepWith_next_of_busy (busy : s.seq ≠ .idle) : ∃ t, stepWith integrity s = .next t := by
  match next : s.inputs with
  | [] => exact ⟨_, stepWith_busy busy (.inl next)⟩
  | .tickEv :: rest => exact ⟨_, stepWith_tickEv next⟩
  | .phaseEnd :: rest => exact ⟨_, stepWith_phaseEnd next⟩
  | .busReset :: rest => exact ⟨_, stepWith_busReset next⟩
  | .powerOn :: rest => exact ⟨_, stepWith_powerOn next⟩
  | .packet bytes :: rest => exact ⟨_, stepWith_busy busy (.inr ⟨_, rest, next, .inr (.inr ⟨bytes, rfl⟩)⟩)⟩
  | .poll :: rest => exact ⟨_, stepWith_busy busy (.inr ⟨_, rest, next, .inl rfl⟩)⟩
  | .pollTick :: rest => exact ⟨_, stepWith_busy busy (.inr ⟨_, rest, next, .inr (.inl rfl)⟩)⟩

end

/-! ### The invariant between transactions and at their ends -/

theorem State.Inv.serIdle {s : State} (inv : s.Inv) (idle : s.serState = .idle) : s.SerIdle where
  serState := idle
  shreg := inv.shreg_rest idle
  bitcnt := inv.bitcnt_rest (by rw [idle]; nofun)
  irqMask := by rw [inv.masked_in_shift, idle]; rfl
  ledDout := eq_false_of_ne_true fun high => by cases idle.symm.trans (inv.high_in_shift high)

/-- The invariant does not speak of the timer's pair and the inputs to come. -/
theorem State.Inv.timer {s : State} (inv : s.Inv) (τ : Time) (u : Bool) (l : List Input) :
    State.Inv { s with time := τ, updated := u, inputs := l } := { inv with }

theorem State.Inv.tick {s : State} (inv : s.Inv) : (tickInterrupt s).Inv := by
  rw [tickInterrupt]
  split
  · exact inv
  · exact inv.timer (s.time + 1#32) true s.inputs

theorem powerOn_inv (s : State) : (powerOn s).Inv := by
  constructor <;> simp [State.reset, Config.fadeRateReset]

/-- Closing a transaction keeps every answer 0. -/
theorem closeTransaction_answers_zero {s : State} (len : s.respLen = 0#8) (all : ∀ r ∈ s.responses, r = 0#8) :
    (closeTransaction s).respLen = 0#8 ∧ ∀ r ∈ (closeTransaction s).responses, r = 0#8 := by
  rw [closeTransaction]
  split
  · exact ⟨len, all⟩
  · exact ⟨len, all⟩
  · refine ⟨rfl, fun r mem => ?_⟩
    rcases List.mem_append.mp mem with old | new
    · exact all r old
    · exact List.mem_singleton.mp new

/-- A transaction that ends with the serializer at rest leaves the invariant. -/
theorem endTransaction_inv_of_rest {u : State} (rest : u.SerIdle) (rate : u.rate ≠ 0#16) (len : u.respLen = 0#8)
    (all : ∀ r ∈ u.responses, r = 0#8) : (endTransaction u).Inv := by
  obtain ⟨idle, shreg, bitcnt, unmasked, low⟩ := rest
  obtain ⟨len', all'⟩ := closeTransaction_answers_zero (s := renderReturns u) (by simpa using len) (by simpa using all)
  rw [endTransaction_idle idle]
  exact {
    rate_pos := by simpa using rate
    masked_in_shift := by simp [idle, unmasked]
    high_in_shift := by simp [low]
    bitcnt_range := by simp [bitcnt]
    bitcnt_rest := by simp [bitcnt]
    shreg_rest := by simp [shreg]
    open_iff := by simp [idle]
    untimed_closed := by simp
    waits_in_render := by simp
    snap_in_command := by simp
    heartbeat_in_poll := by simp
    resp_zero := len'
    responses_zero := all' }

/-- A transaction that waits for its `RENDER` at the start of a frame meets the invariant. -/
theorem endTransaction_inv_of_started {f : Frame} {k : AfterRender} {u : State} (started : u.SerStarted f)
    (waits : u.afterRender = k) (rate : u.rate ≠ 0#16) (len : u.respLen = 0#8) (all : ∀ r ∈ u.responses, r = 0#8)
    (grain : u.phased = true) (busy : u.seq ≠ .idle) (snap : k = .snap → u.seq = .cmd)
    (heartbeat : ∀ τ, k = .heartbeat τ → u.seq = .poll) : (endTransaction u).Inv := by
  obtain ⟨shift, -, bitcnt, masked, -⟩ := started
  subst waits
  rw [endTransaction_open (by rw [shift]; nofun)]
  exact {
    rate_pos := rate
    masked_in_shift := by simp [shift, masked]
    high_in_shift := fun _ => shift
    bitcnt_range := by simp [bitcnt]
    bitcnt_rest := fun notShift => absurd shift notShift
    shreg_rest := by simp [shift]
    open_iff := by simp [shift, busy]
    untimed_closed := by simp [grain]
    waits_in_render := by simp [shift]
    snap_in_command := snap
    heartbeat_in_poll := heartbeat
    resp_zero := len
    responses_zero := all }

/-- A transaction opened from the invariant ends, or waits for its `RENDER`, in the invariant. -/
theorem Transacts.inv {k : AfterRender} {s v u : State} (transacts : Transacts k v u) (opened : Opens s v) (inv : s.Inv)
    (isIdle : s.seq = .idle) : (endTransaction u).Inv := by
  obtain ⟨τ, flag, x, l, busy, rfl⟩ := opened
  obtain ⟨once, outside, rate, snap, heartbeat⟩ := transacts
  obtain ⟨idle, shreg, bitcnt, unmasked, low⟩ := inv.serIdle (inv.open_iff.mp isIdle)
  have len : u.respLen = 0#8 := outside.respLen.trans inv.resp_zero
  have all : ∀ r ∈ u.responses, r = 0#8 := outside.responses ▸ inv.responses_zero
  rcases once.rest_or_started ⟨idle, shreg, bitcnt, unmasked, low⟩ (inv.waits_in_render idle) with
    ⟨rest, -⟩ | ⟨grain, f, started, waits⟩
  · exact endTransaction_inv_of_rest rest (rate inv.rate_pos) len all
  · exact endTransaction_inv_of_started started waits (rate inv.rate_pos) len all (outside.phased.trans grain)
      (outside.seq ▸ busy) (outside.seq ▸ snap) (outside.seq ▸ heartbeat)

/-! ### A phase -/

theorem serAdvance_high {s : State} (shift : s.serState = .shift) (high : s.ledDout = true) :
    serAdvance s = { s with ledDout := false } := by
  simp only [serAdvance, shift, high, if_true]

theorem serAdvance_low_last {s : State} (shift : s.serState = .shift) (low : s.ledDout = false) (last : s.bitcnt = 0#5) :
    serAdvance s = { s with irqMask := false, serState := .latch } := by
  simp [serAdvance, shift, low, last]

theorem serAdvance_low_next {s : State} (shift : s.serState = .shift) (low : s.ledDout = false) (next : s.bitcnt ≠ 0#5) :
    serAdvance s = { s with shreg := s.shreg <<< 1, bitcnt := s.bitcnt - 1#5, ledDout := true } := by
  simp [serAdvance, shift, low, next]

theorem serAdvance_latch {s : State} (latch : s.serState = .latch) :
    serAdvance s = { s with serState := .idle, shreg := 0#24 } := by
  simp only [serAdvance, latch]

theorem serAdvance_idle {s : State} (idle : s.serState = .idle) : serAdvance s = s := by
  simp only [serAdvance, idle]

/-- In the slots a phase never ends the transaction. -/
theorem serAdvance_busy_of_shift {s : State} (shift : s.serState = .shift) : (serAdvance s).serState ≠ .idle := by
  have busy : s.serState ≠ .idle := by rw [shift]; nofun
  rcases Bool.eq_false_or_eq_true s.ledDout with high | low
  · rw [serAdvance_high shift high]; exact busy
  · by_cases last : s.bitcnt = 0#5
    · rw [serAdvance_low_last shift low last]; nofun
    · rw [serAdvance_low_next shift low last]; exact busy

theorem advancePhase_shift {s : State} (shift : s.serState = .shift) : advancePhase s = serAdvance s :=
  endTransaction_open (serAdvance_busy_of_shift shift)

/-- With nothing under way a phase changes nothing. -/
theorem advancePhase_idle {s : State} (idle : s.serState = .idle) (nothing : s.afterRender = .nothing)
    (isIdle : s.seq = .idle) : advancePhase s = s := by
  rw [advancePhase, serAdvance_idle idle, endTransaction_rest idle nothing isIdle]

/-- A phase of the slots keeps the invariant. -/
theorem State.Inv.serAdvance_shift {s : State} (inv : s.Inv) (shift : s.serState = .shift) : (serAdvance s).Inv := by
  have busy : s.seq ≠ .idle := fun isIdle => by cases shift.symm.trans (inv.open_iff.mp isIdle)
  have range : s.bitcnt.toNat ≤ 23 := inv.bitcnt_range
  rcases Bool.eq_false_or_eq_true s.ledDout with high | low
  · rw [serAdvance_high shift high]
    exact { inv with high_in_shift := nofun }
  · by_cases last : s.bitcnt = 0#5
    · rw [serAdvance_low_last shift low last]
      exact { inv with
        masked_in_shift := rfl
        high_in_shift := fun high => by cases low.symm.trans high
        bitcnt_rest := fun _ => last
        shreg_rest := nofun
        open_iff := iff_of_false busy nofun
        waits_in_render := nofun }
    · rw [serAdvance_low_next shift low last]
      have pos : s.bitcnt.toNat ≠ 0 := fun zero => last (BitVec.eq_of_toNat_eq zero)
      have fewer : s.bitcnt - 1#5 ≤ 23#5 := by
        rw [BitVec.le_def, BitVec.toNat_sub_of_le (by rw [BitVec.le_def]; exact Nat.pos_of_ne_zero pos)]
        exact Nat.le_trans (Nat.sub_le _ _) range
      exact { inv with
        high_in_shift := fun _ => shift
        bitcnt_range := fewer
        bitcnt_rest := fun notShift => absurd shift notShift
        shreg_rest := fun idle => by cases shift.symm.trans idle }

/-- Every phase keeps the invariant. -/
theorem State.Inv.advancePhase {s : State} (inv : s.Inv) : (advancePhase s).Inv := by
  match serializer : s.serState with
  | .idle => rwa [advancePhase_idle serializer (inv.waits_in_render serializer) (inv.open_iff.mpr serializer)]
  | .shift => rw [advancePhase_shift serializer]; exact inv.serAdvance_shift serializer
  | .latch =>
    have notShift : s.serState ≠ .shift := by rw [serializer]; nofun
    have unmasked : s.irqMask = false := by rw [inv.masked_in_shift, serializer]; rfl
    have low : s.ledDout = false := eq_false_of_ne_true fun high => notShift (inv.high_in_shift high)
    rw [Machine.advancePhase, serAdvance_latch serializer]
    exact endTransaction_inv_of_rest ⟨rfl, rfl, inv.bitcnt_rest notShift, unmasked, low⟩ inv.rate_pos inv.resp_zero
      inv.responses_zero

/-- Every step keeps the invariant. -/
theorem State.Inv.stepWith {integrity : List Byte → Word16} {s t : State} (inv : s.Inv)
    (run : stepWith integrity s = .next t) : t.Inv := by
  rcases stepWith_transacts run with ⟨l, rfl⟩ | ⟨l, rfl⟩ | ⟨l, rfl⟩ | ⟨l, -, rfl⟩ |
    ⟨isIdle, k, v, u, opened, transacts, rfl⟩
  · exact (inv.timer s.time s.updated l).tick
  · exact (inv.timer s.time s.updated l).advancePhase
  · exact inv.timer s.time s.updated l
  · exact powerOn_inv _
  · exact transacts.inv opened inv isIdle

/-! ### The obligations -/

/-- Settles O52. -/
theorem resetStateIsTheResetTable : Obligations.ResetStateIsTheResetTable :=
  ⟨rfl, rfl, rfl, rfl, rfl, rfl, rfl, rfl, rfl, rfl, rfl, rfl, rfl, rfl, rfl, rfl, rfl, rfl⟩

/-- Settles O53. -/
theorem powerOnResetsEverything : Obligations.PowerOnResetsEverything := by
  intro s rest next
  rw [step_eq, stepWith_powerOn next]
  rfl

/-- Settles O54. -/
theorem busResetChangesNothing : Obligations.BusResetChangesNothing := by
  intro s rest next
  rw [step_eq, stepWith_busReset next]

/-- Settles O55: the reset state is what a power-on reset leaves of it. -/
theorem resetMeetsTheInvariant : Obligations.ResetMeetsTheInvariant := powerOn_inv State.reset

/-- Settles O56, by what a step can do: a tick, a phase, nothing, a power-on reset, or a transaction. -/
theorem everyStepKeepsTheInvariant : Obligations.EveryStepKeepsTheInvariant :=
  ⟨fun _ _ inv run => inv.stepWith run, fun _ _ _ inv run => inv.stepWith run⟩

/-- Settles O58: only a transaction adds a frame, and it renders at most once. -/
theorem framesOnlyGrow : Obligations.FramesOnlyGrow := by
  intro s t run noReset
  rcases stepWith_transacts run with ⟨l, rfl⟩ | ⟨l, rfl⟩ | ⟨l, rfl⟩ | ⟨l, next, -⟩ |
    ⟨-, k, v, u, opened, transacts, rfl⟩
  · exact .inl (tickInterrupt_frames _)
  · exact .inl ((endTransaction_frames _).trans (serAdvance_frames _))
  · exact .inl rfl
  · exact absurd next (noReset l)
  · obtain ⟨τ, flag, x, l, -, rfl⟩ := opened
    rw [endTransaction_frames]
    exact transacts.renders.frames

/-- Settles O57: only a packet at an idle sequencer can be refused, and only for its length. -/
theorem everyStepGoesOn : Obligations.EveryStepGoesOn := by
  intro s
  by_cases isIdle : s.seq = .idle
  · match next : s.inputs with
    | .packet bytes :: rest =>
      by_cases ten : bytes.length = 10
      · obtain ⟨t, run⟩ := runCommandWith_next (integrity := integrity16) (s := { s with inputs := rest }) ten
        exact .inl ⟨t, (step_packet_idle next isIdle).trans run⟩
      · exact .inr ⟨isIdle, bytes, rest, rfl, ten, stepWith_wrong_length next isIdle ten⟩
    | [] => exact .inl ⟨_, step_nil_idle next isIdle⟩
    | .tickEv :: rest => exact .inl ⟨_, step_tickEv next⟩
    | .phaseEnd :: rest => exact .inl ⟨_, step_phaseEnd next⟩
    | .busReset :: rest => exact .inl ⟨_, stepWith_busReset next⟩
    | .powerOn :: rest => exact .inl ⟨_, stepWith_powerOn next⟩
    | .poll :: rest => exact .inl ⟨_, step_poll_idle next isIdle⟩
    | .pollTick :: rest => exact .inl ⟨_, step_pollTick_idle next isIdle⟩
  · obtain ⟨t, run⟩ := stepWith_next_of_busy (integrity := integrity16) isIdle
    exact .inl ⟨t, run⟩

end Sys2Proof.Machine
end

section
/-! PROOF. Who may change what in a step, and that an open transaction ends (spec/10_state.md rule R22, spec/20_memory.md rules R70,
R78, spec/43_led_serializer.md rules R190, R203). -/

namespace Sys2Proof.Machine

/-! ### What the end of a transaction still changes -/

/-- Only a waiting `SNAP` writes targets when a `RENDER` returns. -/
theorem renderReturns_tgt_of_ne {s : State} (other : s.afterRender ≠ .snap) : (renderReturns s).tgt = s.tgt := by
  rw [renderReturns]
  match waits : s.afterRender with
  | .snap => exact absurd waits other
  | .nothing => rfl
  | .heartbeat τ => rfl

/-- Only a waiting heartbeat writes the indicator when a `RENDER` returns. -/
theorem renderReturns_indicator_of_ne {s : State} (other : ∀ τ, s.afterRender ≠ .heartbeat τ) :
    (renderReturns s).indicator = s.indicator := by
  rw [renderReturns]
  match waits : s.afterRender with
  | .heartbeat τ => exact absurd waits (other τ)
  | .nothing => rfl
  | .snap => rfl

/-- The end of a transaction writes what the return of its `RENDER` does. -/
theorem endTransaction_tgt_of_idle {s : State} (idle : s.serState = .idle) :
    (endTransaction s).tgt = (renderReturns s).tgt := by
  rw [endTransaction_idle idle, closeTransaction_tgt]

theorem endTransaction_indicator_of_idle {s : State} (idle : s.serState = .idle) :
    (endTransaction s).indicator = (renderReturns s).indicator := by
  rw [endTransaction_idle idle, closeTransaction_indicator]

/-- The end of a transaction writes no register unless a `SNAP` waits. -/
theorem endTransaction_get {s : State} (kept : s.serState = .idle → s.afterRender ≠ .snap) (r : Reg) :
    (endTransaction s).get r = s.get r := by
  refine State.get_congr (endTransaction_cur s) ?_ (endTransaction_rate s) (endTransaction_duty s)
    (endTransaction_period s) r
  by_cases idle : s.serState = .idle
  · rw [endTransaction_tgt_of_idle idle, renderReturns_tgt_of_ne (kept idle)]
  · rw [endTransaction_open idle]

/-- The end of a transaction leaves the indicator unless a heartbeat waits. -/
theorem endTransaction_indicator {s : State} (kept : s.serState = .idle → ∀ τ, s.afterRender ≠ .heartbeat τ) :
    (endTransaction s).indicator = s.indicator := by
  by_cases idle : s.serState = .idle
  · rw [endTransaction_indicator_of_idle idle, renderReturns_indicator_of_ne (kept idle)]
  · rw [endTransaction_open idle]

theorem serAdvance_get (s : State) (r : Reg) : (serAdvance s).get r = s.get r :=
  State.get_congr (serAdvance_cur s) (serAdvance_tgt s) (serAdvance_rate s) (serAdvance_duty s) (serAdvance_period s) r

/-- What follows a `RENDER` does not depend on the serializer's phase. -/
theorem renderReturns_serAdvance (s : State) :
    (renderReturns (serAdvance s)).tgt = (renderReturns s).tgt ∧
      (renderReturns (serAdvance s)).indicator = (renderReturns s).indicator := by
  rw [renderReturns, renderReturns, serAdvance_afterRender]
  cases s.afterRender <;> simp [runAfterRender]

/-! ### What a transaction and a phase may change -/

/-- Where a transaction opened at rest ends at once, nothing waits. -/
theorem Transacts.nothing_waits {k : AfterRender} {s v u : State} (transacts : Transacts k v u) (opened : Opens s v)
    (inv : s.Inv) (isIdle : s.seq = .idle) (idle : u.serState = .idle) : u.afterRender = .nothing := by
  obtain ⟨τ, flag, x, l, -, rfl⟩ := opened
  obtain ⟨idle', shreg, bitcnt, unmasked, low⟩ := inv.serIdle (inv.open_iff.mp isIdle)
  rcases transacts.renders.rest_or_started ⟨idle', shreg, bitcnt, unmasked, low⟩ (inv.waits_in_render idle') with
    ⟨-, nothing⟩ | ⟨-, f, started, -⟩
  · exact nothing
  · cases idle.symm.trans started.serState

/-- What a transaction has written when it ends or waits for its `RENDER` is what the step has written. -/
theorem Transacts.ends {k : AfterRender} {s v u : State} (transacts : Transacts k v u) (opened : Opens s v)
    (inv : s.Inv) (isIdle : s.seq = .idle) :
    (∀ r, (endTransaction u).get r = u.get r) ∧ (endTransaction u).indicator = u.indicator := by
  have nothing := transacts.nothing_waits opened inv isIdle
  exact ⟨endTransaction_get fun idle => by rw [nothing idle]; nofun,
    endTransaction_indicator fun idle τ => by rw [nothing idle]; nofun⟩

/-- A phase changes a register only where a `RENDER` returns to a `SNAP`, and then a target. -/
theorem advancePhase_get_ne {s : State} (inv : s.Inv) {r : Reg} (changed : (advancePhase s).get r ≠ s.get r) :
    s.serState = .latch ∧ s.afterRender = .snap ∧ ∃ c, r = .tgt c := by
  match serializer : s.serState with
  | .idle =>
    rw [advancePhase_idle serializer (inv.waits_in_render serializer) (inv.open_iff.mpr serializer)] at changed
    exact absurd rfl changed
  | .shift =>
    rw [advancePhase_shift serializer] at changed
    exact absurd (serAdvance_get s r) changed
  | .latch =>
    refine ⟨rfl, ?_, ?_⟩
    · by_contra other
      exact changed ((endTransaction_get (fun _ => by rwa [serAdvance_afterRender]) r).trans (serAdvance_get s r))
    · cases r with
      | tgt c => exact ⟨c, rfl⟩
      | _ => exact absurd (by simp [State.get, advancePhase]) changed

/-- A phase changes the indicator only where a `RENDER` returns to a heartbeat. -/
theorem advancePhase_indicator_ne {s : State} (inv : s.Inv) (changed : (advancePhase s).indicator ≠ s.indicator) :
    s.serState = .latch ∧ ∃ τ, s.afterRender = .heartbeat τ := by
  match serializer : s.serState with
  | .idle =>
    rw [advancePhase_idle serializer (inv.waits_in_render serializer) (inv.open_iff.mpr serializer)] at changed
    exact absurd rfl changed
  | .shift =>
    rw [advancePhase_shift serializer] at changed
    exact absurd (serAdvance_indicator s) changed
  | .latch =>
    refine ⟨rfl, ?_⟩
    by_contra other
    refine changed ((endTransaction_indicator fun _ τ => ?_).trans (serAdvance_indicator s))
    rw [serAdvance_afterRender]
    exact fun waits => other ⟨τ, waits⟩

/-! ### The writer table -/

theorem snap_get {s : State} {r : Reg} (other : ∀ c, r ≠ .tgt c) : (snap s).get r = s.get r := by
  cases r with
  | tgt c => exact absurd rfl (other c)
  | _ => rfl

/-- A command writes only the registers the table lists for it. -/
theorem beforeRender_get {i : Instr} {r : Reg} (s : State) (unlisted : writesReg i r = false) :
    (beforeRender i s).get r = s.get r := by
  cases i with
  | reset =>
    cases r with
    | cur c => cases unlisted
    | tgt c => cases unlisted
    | _ => rfl
  | commit => cases r <;> rfl
  | setStatus value => cases r <;> rfl
  | setRed value =>
    exact (snap_get (by rintro c rfl; cases unlisted)).trans (State.get_set_other s value (by rintro rfl; cases unlisted))
  | setGreen value =>
    exact (snap_get (by rintro c rfl; cases unlisted)).trans (State.get_set_other s value (by rintro rfl; cases unlisted))
  | setBlue value =>
    exact (snap_get (by rintro c rfl; cases unlisted)).trans (State.get_set_other s value (by rintro rfl; cases unlisted))
  | fadeRed value => exact State.get_set_other s value (by rintro rfl; cases unlisted)
  | fadeGreen value => exact State.get_set_other s value (by rintro rfl; cases unlisted)
  | fadeBlue value => exact State.get_set_other s value (by rintro rfl; cases unlisted)
  | setFadeRate value =>
    rw [beforeRender]
    split
    next zero => exact snap_get (by rintro c rfl; exact absurd zero (beq_eq_false_iff_ne.mp unlisted))
    next nonzero => exact State.get_set_other s value (by rintro rfl; exact nonzero (by simpa [writesReg] using unlisted))
  | setBlink value index =>
    exact (State.get_set_other _ index (by rintro rfl; cases unlisted)).trans
      (State.get_set_other s value (by rintro rfl; cases unlisted))

/-- The table lists the targets for every command that snaps. -/
theorem writesReg_tgt_of_snaps {i : Instr} (snaps : snapsTargets i = true) (c : Chan) : writesReg i (.tgt c) = true := by
  cases i with
  | setFadeRate value => exact snaps
  | reset => rfl
  | commit => rfl
  | setRed value => rfl
  | setGreen value => rfl
  | setBlue value => rfl
  | _ => cases snaps

theorem commandEnd_get {i : Instr} {r : Reg} (s : State) (unlisted : writesReg i r = false) :
    (commandEnd i s).get r = s.get r := by
  rw [← beforeRender_get s unlisted]
  cases r with
  | tgt c =>
    have keeps : snapsTargets i = false := by
      by_contra snaps
      exact absurd (writesReg_tgt_of_snaps (eq_true_of_ne_false snaps) c) (ne_true_of_eq_false unlisted)
    exact congrArg (Rgb.get · c) (commandEnd_tgt_unsnapped s keeps)
  | cur c => exact congrArg (Rgb.get · c) (commandEnd_cur i s)
  | rate => exact commandEnd_rate i s
  | duty => exact commandEnd_duty i s
  | period => exact commandEnd_period i s

theorem commandEnd_status_kept {i : Instr} (s : State) (unlisted : writesStatus i = false) :
    (commandEnd i s).status = s.status := by
  rw [commandEnd_status]
  cases i with
  | reset => cases unlisted
  | setStatus value => cases unlisted
  | setFadeRate value => rw [beforeRender]; split <;> rfl
  | _ => rfl

theorem commandEnd_indicator_kept {i : Instr} (s : State) (unlisted : writesIndicator i = false) :
    (commandEnd i s).indicator = s.indicator := by
  rw [commandEnd_indicator]
  cases i with
  | reset => cases unlisted
  | commit => cases unlisted
  | setFadeRate value => rw [beforeRender]; split <;> rfl
  | _ => rfl

theorem engine_get {r : Reg} (τ : Time) (s : State) (other : ∀ c, r ≠ .cur c) : (engine τ s).get r = s.get r := by
  cases r with
  | cur c => exact absurd rfl (other c)
  | tgt c => exact congrArg (Rgb.get · c) (engine_tgt τ s)
  | rate => exact engine_rate τ s
  | duty => exact engine_duty τ s
  | period => exact engine_period τ s

theorem tickInterrupt_get (s : State) (r : Reg) : (tickInterrupt s).get r = s.get r :=
  State.get_congr (tickInterrupt_cur s) (tickInterrupt_tgt s) (tickInterrupt_rate s) (tickInterrupt_duty s)
    (tickInterrupt_period s) r

/-- A command transaction changes what the tables list for its command, and nothing where it runs none. -/
theorem runCommandWith_changes {bytes : List Byte} {l : List Input} {s t : State} (inv : s.Inv) (isIdle : s.seq = .idle)
    (run : runCommandWith integrity16 bytes { s with inputs := l } = .next t) :
    t.time = s.time ∧ t.updated = s.updated ∧
    (((∀ r, t.get r = s.get r) ∧ t.status = s.status ∧ t.indicator = s.indicator) ∨
      ∃ i, decode bytes = .command i ∧ (∀ r, t.get r ≠ s.get r → writesReg i r = true) ∧
        (t.status ≠ s.status → writesStatus i = true) ∧ (t.indicator ≠ s.indicator → writesIndicator i = true)) := by
  have opened := opens_command s l
  rcases runCommandWith_cases run with ⟨i, u, decoded, ran, rfl⟩ | ⟨-, rfl⟩
  · obtain rfl := exec_eq_next ran
    have outside := commandEnd_outside i { s with inputs := l, seq := .cmd }
    obtain ⟨get, indicator⟩ := (transacts_command i rfl).ends opened inv isIdle
    refine ⟨(endTransaction_time _).trans outside.time, (endTransaction_updated _).trans outside.updated,
      .inr ⟨i, decoded, fun r changed => ?_, fun changed => ?_, fun changed => ?_⟩⟩
    · by_contra unlisted
      exact changed ((get r).trans (commandEnd_get _ (eq_false_of_ne_true unlisted)))
    · by_contra unlisted
      exact changed ((endTransaction_status _).trans (commandEnd_status_kept _ (eq_false_of_ne_true unlisted)))
    · by_contra unlisted
      exact changed (indicator.trans (commandEnd_indicator_kept _ (eq_false_of_ne_true unlisted)))
  · obtain ⟨get, indicator⟩ := (transacts_nothing _).ends opened inv isIdle
    exact ⟨endTransaction_time _, endTransaction_updated _, .inl ⟨get, endTransaction_status _, indicator⟩⟩

/-- A poll changes `cur` and the indicator, and these only where its snapshot's flag is set. -/
theorem afterSnapshot_changes {s v : State} (p : Snapshot) (opened : Opens s v) (isPoll : v.seq = .poll) (inv : s.Inv)
    (isIdle : s.seq = .idle) :
    (∀ r, (afterSnapshot (p, v)).get r ≠ v.get r → p.updated = true ∧ ∃ c, r = .cur c) ∧
    (afterSnapshot (p, v)).status = v.status ∧
    ((afterSnapshot (p, v)).indicator ≠ v.indicator → p.updated = true) ∧
    (afterSnapshot (p, v)).time = v.time ∧ (afterSnapshot (p, v)).updated = v.updated := by
  cases flag : p.updated
  · have quiet : afterSnapshot (p, v) = endTransaction v := by simp [afterSnapshot, flag]
    obtain ⟨get, indicator⟩ := (transacts_nothing v).ends opened inv isIdle
    rw [quiet]
    exact ⟨fun r changed => absurd (get r) changed, endTransaction_status v, fun changed => absurd indicator changed,
      endTransaction_time v, endTransaction_updated v⟩
  · have pass : afterSnapshot (p, v) = endTransaction (engine p.time v) := by simp [afterSnapshot, flag]
    obtain ⟨get, -⟩ := (transacts_engine p.time isPoll).ends opened inv isIdle
    rw [pass]
    refine ⟨fun r changed => ⟨rfl, ?_⟩, ?_, fun _ => rfl, ?_, ?_⟩
    · by_contra other
      exact changed ((get r).trans (engine_get p.time v fun c same => other ⟨c, same⟩))
    · exact (endTransaction_status _).trans (engine_status _ v)
    · exact (endTransaction_time _).trans (engine_time _ v)
    · exact (endTransaction_updated _).trans (engine_updated _ v)

/-! ### The writer table over whole steps -/

/-- The writers of the whole-step table: who may change what between `s` and `t` in the step from `s`. -/
structure ChangedByWriters (s t : State) : Prop where
  registers : ∀ r : Reg, t.get r ≠ s.get r →
    ResetsNext s ∨ (∃ i, RunsNext i s ∧ writesReg i r = true) ∨
    (PollsNext s ∧ s.updated = true ∧ ∃ c, r = .cur c) ∨
    (s.serState = .latch ∧ s.afterRender = .snap ∧ ∃ c, r = .tgt c)
  status : t.status ≠ s.status → ResetsNext s ∨ ∃ i, RunsNext i s ∧ writesStatus i = true
  indicator : t.indicator ≠ s.indicator →
    ResetsNext s ∨ (∃ i, RunsNext i s ∧ writesIndicator i = true) ∨ (PollsNext s ∧ s.updated = true) ∨
    (s.serState = .latch ∧ ∃ τ, s.afterRender = .heartbeat τ)
  time : t.time ≠ s.time → ResetsNext s ∨ TicksNext s
  updated : t.updated ≠ s.updated → ResetsNext s ∨ TicksNext s ∨ PollsNext s

theorem tick_changedByWriters {s : State} {l : List Input} (next : s.inputs = .tickEv :: l) :
    ChangedByWriters s (tickInterrupt { s with inputs := l }) := by
  by_cases masked : s.irqMask = true
  · rw [tickInterrupt_masked (s := { s with inputs := l }) masked]
    exact ⟨fun _ => absurd rfl, absurd rfl, absurd rfl, absurd rfl, absurd rfl⟩
  · have ticks : TicksNext s := ⟨eq_false_of_ne_true masked, .inl ⟨l, next⟩⟩
    exact {
      registers := fun r changed => absurd (tickInterrupt_get _ r) changed
      status := fun changed => absurd (tickInterrupt_status _) changed
      indicator := fun changed => absurd (tickInterrupt_indicator _) changed
      time := fun _ => .inr ticks
      updated := fun _ => .inr (.inl ticks) }

theorem phase_changedByWriters {s : State} (inv : s.Inv) (l : List Input) :
    ChangedByWriters s (advancePhase { s with inputs := l }) where
  registers _ changed := .inr (.inr (.inr (advancePhase_get_ne (inv.timer s.time s.updated l) changed)))
  status changed := absurd ((endTransaction_status _).trans (serAdvance_status _)) changed
  indicator changed := .inr (.inr (.inr
    (advancePhase_indicator_ne (s := { s with inputs := l }) (inv.timer s.time s.updated l) changed)))
  time changed := absurd ((endTransaction_time _).trans (serAdvance_time _)) changed
  updated changed := absurd ((endTransaction_updated _).trans (serAdvance_updated _)) changed

theorem command_changedByWriters {bytes : List Byte} {l : List Input} {s t : State} (inv : s.Inv) (isIdle : s.seq = .idle)
    (next : s.inputs = .packet bytes :: l) (run : runCommandWith integrity16 bytes { s with inputs := l } = .next t) :
    ChangedByWriters s t := by
  obtain ⟨time, updated, ⟨get, status, indicator⟩ | ⟨i, decoded, get, status, indicator⟩⟩ :=
    runCommandWith_changes inv isIdle run
  · exact ⟨fun r => absurd (get r), absurd status, absurd indicator, absurd time, absurd updated⟩
  · have runs : RunsNext i s := ⟨isIdle, bytes, l, next, decoded⟩
    exact ⟨fun r changed => .inr (.inl ⟨i, runs, get r changed⟩), fun changed => .inr ⟨i, runs, status changed⟩,
      fun changed => .inr (.inl ⟨i, runs, indicator changed⟩), absurd time, absurd updated⟩

theorem poll_changedByWriters {l : List Input} {s : State} (inv : s.Inv) (polls : PollsNext s) :
    ChangedByWriters s (runPoll { s with inputs := l }) := by
  obtain ⟨get, status, indicator, time, -⟩ := afterSnapshot_changes { time := s.time, updated := s.updated }
    (opens_poll s l) rfl inv polls.1
  exact ⟨fun r changed => .inr (.inr (.inl ⟨polls, get r changed⟩)), absurd status,
    fun changed => .inr (.inr (.inl ⟨polls, indicator changed⟩)), absurd time, fun _ => .inr (.inr polls)⟩

theorem pollTick_changedByWriters {l : List Input} {s : State} (inv : s.Inv) (isIdle : s.seq = .idle)
    (next : s.inputs = .pollTick :: l) : ChangedByWriters s (runPollTick { s with inputs := l }) := by
  have polls : PollsNext s := ⟨isIdle, .inr (.inr ⟨l, next⟩)⟩
  have unmasked : s.irqMask = false := (inv.serIdle (inv.open_iff.mp isIdle)).irqMask
  have ticks : TicksNext s := ⟨unmasked, .inr ⟨isIdle, l, next⟩⟩
  obtain ⟨get, status, indicator, -, -⟩ := afterSnapshot_changes { time := s.time, updated := s.updated }
    (opens_pollTick s l) (tickInterrupt_seq _) inv isIdle
  simp only [tickInterrupt_get, tickInterrupt_status, tickInterrupt_indicator] at get status indicator
  exact ⟨fun r changed => .inr (.inr (.inl ⟨polls, get r changed⟩)), absurd status,
    fun changed => .inr (.inr (.inl ⟨polls, indicator changed⟩)), fun _ => .inr ticks, fun _ => .inr (.inl ticks)⟩

/-- Every step from the invariant changes what it changes by the writer table. -/
theorem step_changedByWriters {s t : State} (inv : s.Inv) (run : step s = .next t) : ChangedByWriters s t := by
  rcases stepWith_cases run with ⟨l, next, rfl⟩ | ⟨l, -, rfl⟩ | ⟨l, -, rfl⟩ | ⟨l, next, -⟩ | ⟨-, -, rfl⟩ |
    ⟨isIdle, bytes, l, next, ran⟩ | ⟨isIdle, l, next, rfl⟩ | ⟨isIdle, l, next, rfl⟩
  · exact tick_changedByWriters next
  · exact phase_changedByWriters inv l
  · exact ⟨fun _ => absurd rfl, absurd rfl, absurd rfl, absurd rfl, absurd rfl⟩
  · have resets : ResetsNext s := ⟨l, next⟩
    exact ⟨fun _ _ => .inl resets, fun _ => .inl resets, fun _ => .inl resets, fun _ => .inl resets, fun _ => .inl resets⟩
  · exact phase_changedByWriters inv s.inputs
  · exact command_changedByWriters inv isIdle next ran
  · exact poll_changedByWriters inv ⟨isIdle, next.elim (fun next => .inr (.inl ⟨l, next⟩)) fun none => .inl none.1⟩
  · exact pollTick_changedByWriters inv isIdle next

/-! ### How far an open transaction is -/

/-- How many phases the serializer still has to go through. -/
def phasesLeft (s : State) : Nat :=
  match s.serState with
  | .idle => 0
  | .shift => 2 * s.bitcnt.toNat + if s.ledDout then 3 else 2
  | .latch => 1

/-- How many of the inputs to come take a step that ends no phase. -/
def delays (l : List Input) : Nat := l.countP (fun x => x == .tickEv || x == .busReset)

theorem phasesLeft_le {s : State} (inv : s.Inv) : phasesLeft s ≤ framePhases := by
  have range : s.bitcnt.toNat ≤ 23 := inv.bitcnt_range
  rw [phasesLeft, framePhases]
  split
  · omega
  · split <;> omega
  · omega

theorem phasesLeft_pos {s : State} (busy : s.serState ≠ .idle) : 0 < phasesLeft s := by
  rw [phasesLeft]
  split
  next idle => exact absurd idle busy
  · split <;> omega
  · omega

/-- Every phase that ends is one fewer to come. -/
theorem phasesLeft_serAdvance {s : State} (busy : s.serState ≠ .idle) : phasesLeft (serAdvance s) + 1 = phasesLeft s := by
  match serializer : s.serState with
  | .idle => exact absurd serializer busy
  | .latch => rw [serAdvance_latch serializer, phasesLeft, phasesLeft, serializer]
  | .shift =>
    rcases Bool.eq_false_or_eq_true s.ledDout with high | low
    · rw [serAdvance_high serializer high]
      simp [phasesLeft, serializer, high]
    · by_cases last : s.bitcnt = 0#5
      · rw [serAdvance_low_last serializer low last]
        simp [phasesLeft, serializer, low, last]
      · have pos : 0 < s.bitcnt.toNat := Nat.pos_of_ne_zero fun zero => last (BitVec.eq_of_toNat_eq zero)
        have fewer : (s.bitcnt - 1#5).toNat = s.bitcnt.toNat - 1 := BitVec.toNat_sub_of_le pos
        rw [serAdvance_low_next serializer low last]
        simp only [phasesLeft, serializer, low, fewer, if_true, Bool.false_eq_true, if_false]
        omega

/-- A step with a transaction open ends it, or brings its end nearer. -/
structure Progress (s t : State) : Prop where
  nearer : t.seq = .idle ∨ phasesLeft t + delays t.inputs < phasesLeft s + delays s.inputs
  inputs : t.inputs <:+ s.inputs
  frames : .powerOn ∉ s.inputs → t.frames = s.frames

theorem phase_progress {s : State} {l : List Input} (inv : s.Inv) (busy : s.seq ≠ .idle) (later : l <:+ s.inputs) :
    Progress s (advancePhase { s with inputs := l }) := by
  have working : s.serState ≠ .idle := fun idle => busy (inv.open_iff.mpr idle)
  have fewer : delays l ≤ delays s.inputs := later.sublist.countP_le
  refine ⟨?_, by simpa [advancePhase] using later, fun _ => by simp [advancePhase]⟩
  by_cases returned : (serAdvance { s with inputs := l }).serState = .idle
  · exact .inl (endTransaction_seq_idle returned)
  · have left : phasesLeft (serAdvance { s with inputs := l }) + 1 = phasesLeft s :=
      phasesLeft_serAdvance (s := { s with inputs := l }) working
    rw [advancePhase, endTransaction_open returned, serAdvance_inputs]
    have less : phasesLeft (serAdvance { s with inputs := l }) + delays l < phasesLeft s + delays s.inputs := by omega
    exact .inr less

/-- With a transaction open every input but a power-on reset ends a phase or is taken. -/
theorem stepWith_progress {integrity : List Byte → Word16} {s : State} (inv : s.Inv) (busy : s.seq ≠ .idle) :
    ∃ t, stepWith integrity s = .next t ∧ Progress s t := by
  have tail : ∀ {x : Input} {l}, s.inputs = x :: l → l <:+ s.inputs := fun next => next ▸ List.suffix_cons _ _
  have phase : ∀ {x l}, s.inputs = x :: l → x = .poll ∨ x = .pollTick ∨ (∃ bytes, x = .packet bytes) →
      ∃ t, stepWith integrity s = .next t ∧ Progress s t := fun next waits =>
    ⟨_, stepWith_busy busy (.inr ⟨_, _, next, waits⟩), phase_progress inv busy List.suffix_rfl⟩
  match next : s.inputs with
  | [] => exact ⟨_, stepWith_busy busy (.inl next), phase_progress inv busy List.suffix_rfl⟩
  | .packet bytes :: l => exact phase next (.inr (.inr ⟨bytes, rfl⟩))
  | .poll :: l => exact phase next (.inl rfl)
  | .pollTick :: l => exact phase next (.inr (.inl rfl))
  | .phaseEnd :: l => exact ⟨_, stepWith_phaseEnd next, phase_progress inv busy (tail next)⟩
  | .tickEv :: l =>
    refine ⟨_, stepWith_tickEv next, .inr ?_, by simpa using tail next, fun _ => tickInterrupt_frames _⟩
    simp [phasesLeft, delays, next]
  | .busReset :: l =>
    refine ⟨_, stepWith_busReset next, .inr ?_, tail next, fun _ => rfl⟩
    simp [phasesLeft, delays, next]
  | .powerOn :: l =>
    exact ⟨_, stepWith_powerOn next, .inl rfl, tail next, fun none => absurd (next ▸ List.mem_cons_self) none⟩

/-- An open transaction ends within as many steps as there are phases left and inputs that end none. -/
theorem open_transaction_ends (m : Nat) (s : State) (inv : s.Inv) (busy : s.seq ≠ .idle)
    (bound : phasesLeft s + delays s.inputs ≤ m) :
    ∃ n t, n ≤ m ∧ runSteps n s = .next t ∧ t.seq = .idle ∧ t.inputs <:+ s.inputs ∧
      (.powerOn ∉ s.inputs → t.frames = s.frames) := by
  induction m generalizing s with
  | zero =>
    have left := phasesLeft_pos fun idle => busy (inv.open_iff.mpr idle)
    omega
  | succ m ih =>
    obtain ⟨t, run, nearer, later, frames⟩ := stepWith_progress (integrity := integrity16) inv busy
    by_cases isIdle : t.seq = .idle
    · exact ⟨1, t, by omega, runSteps_one run, isIdle, later, frames⟩
    · have closer := nearer.resolve_left isIdle
      obtain ⟨n, u, le, runs, ends, later', frames'⟩ := ih t (inv.stepWith run) isIdle (by omega)
      exact ⟨n + 1, u, by omega, (runSteps_next run n).trans runs, ends, later'.trans later, fun none =>
        (frames' fun mem => none (later.subset mem)).trans (frames none)⟩

/-! ### The untimed grain serves an input a step -/

theorem stepWith_phased {integrity : List Byte → Word16} {s t : State} (run : stepWith integrity s = .next t) :
    t.phased = s.phased := by
  rcases stepWith_transacts run with ⟨l, rfl⟩ | ⟨l, rfl⟩ | ⟨l, rfl⟩ | ⟨l, -, rfl⟩ |
    ⟨-, k, v, u, opened, transacts, rfl⟩
  · exact tickInterrupt_phased _
  · exact (endTransaction_phased _).trans (serAdvance_phased _)
  · rfl
  · rfl
  · obtain ⟨τ, flag, x, l, -, rfl⟩ := opened
    exact (endTransaction_phased _).trans transacts.outside.phased

/-- A step of an idle sequencer takes the input at the head. -/
theorem stepWith_inputs {integrity : List Byte → Word16} {s t : State} (run : stepWith integrity s = .next t)
    (isIdle : s.seq = .idle) : t.inputs = s.inputs.tail := by
  rcases stepWith_cases run with ⟨l, next, rfl⟩ | ⟨l, next, rfl⟩ | ⟨l, next, rfl⟩ | ⟨l, next, rfl⟩ | ⟨busy, -⟩ |
    ⟨-, bytes, l, next, ran⟩ | ⟨-, l, next, rfl⟩ | ⟨-, l, next, rfl⟩
  · rw [next, tickInterrupt_inputs]; rfl
  · rw [next, advancePhase, endTransaction_inputs, serAdvance_inputs]; rfl
  · rw [next]; rfl
  · rw [next]; rfl
  · exact absurd isIdle busy
  · obtain ⟨k, u, transacts, rfl⟩ := runCommandWith_transacts ran
    rw [next, endTransaction_inputs, transacts.outside.inputs]; rfl
  · obtain ⟨k, u, transacts, ends⟩ := runPoll_transacts { s with inputs := l }
    have taken : s.inputs.tail = l := by rcases next with next | ⟨next, rfl⟩ <;> rw [next] <;> rfl
    rw [taken, ends, endTransaction_inputs, transacts.outside.inputs]
  · obtain ⟨k, u, transacts, ends⟩ := runPollTick_transacts { s with inputs := l }
    rw [next, ends, endTransaction_inputs, transacts.outside.inputs, tickInterrupt_inputs]; rfl

/-! ### The obligations -/

/-- Settles O12: the step ends a phase, and the packet stays. -/
theorem packetWaitsWhileBusy : Obligations.PacketWaitsWhileBusy := by
  intro s bytes rest next busy
  have run : step s = .next (advancePhase s) := step_busy busy (.inr ⟨_, rest, next, .inr (.inr ⟨bytes, rfl⟩)⟩)
  refine ⟨advancePhase s, run, by simp [advancePhase], by simp [advancePhase], by simp [advancePhase],
    by simp [advancePhase], by simp [advancePhase], fun shift => ?_, fun notShift => ?_⟩
  · rw [advancePhase_shift shift]
    exact ⟨serAdvance_get s, serAdvance_indicator s, serAdvance_seq s⟩
  · have returned : (serAdvance s).serState = .idle := by
      match serializer : s.serState with
      | .idle => rw [serAdvance_idle serializer, serializer]
      | .shift => exact absurd serializer notShift
      | .latch => rw [serAdvance_latch serializer]
    obtain ⟨tgt, indicator⟩ := renderReturns_serAdvance s
    refine ⟨State.get_congr ?_ ((endTransaction_tgt_of_idle returned).trans tgt) ?_ ?_ ?_,
      (endTransaction_indicator_of_idle returned).trans indicator⟩ <;> simp [advancePhase]

/-- Settles O21: the tables hold for a command, an engine pass and a tick on their own, and so for every step. -/
theorem registersChangeOnlyByTheirWriters : Obligations.RegistersChangeOnlyByTheirWriters := by
  refine ⟨fun i s t r run changed => ?_, fun τ s r changed => ?_, tickInterrupt_get, fun s t inv run => ?_⟩
  · obtain rfl := exec_eq_next run
    by_contra unlisted
    exact changed (commandEnd_get s (eq_false_of_ne_true unlisted))
  · by_contra other
    exact changed (engine_get τ s fun c same => other ⟨c, same⟩)
  · obtain ⟨registers, status, indicator, time, updated⟩ := step_changedByWriters inv run
    exact ⟨registers, status, indicator, time, updated⟩

/-- Settles O59, by induction on the number of steps: an idle sequencer takes one input a step and is idle again. -/
theorem inputsAreServedOneAStep : Obligations.InputsAreServedOneAStep := by
  intro n
  induction n with
  | zero => exact fun s inv grain _ _ => ⟨s, rfl, rfl, cmdReady_iff.mpr (inv.untimed_closed grain)⟩
  | succ n ih =>
    intro s inv grain ten enough
    have isIdle := inv.untimed_closed grain
    rcases everyStepGoesOn s with ⟨t, run⟩ | ⟨-, bytes, rest, next, wrong, -⟩
    · have inputs := stepWith_inputs run isIdle
      obtain ⟨u, runs, later, ready⟩ := ih t (inv.stepWith run) ((stepWith_phased run).trans grain)
        (fun bytes mem => ten bytes (List.mem_of_mem_tail (inputs ▸ mem)))
        (by rw [inputs, List.length_tail]; omega)
      refine ⟨u, (runSteps_next run n).trans runs, ?_, ready⟩
      rw [later, inputs, List.drop_tail]
    · exact absurd (ten bytes (next ▸ List.mem_cons_self)) wrong

/-- Settles O60: a frame has 49 phases, and only a compare-match and a bus reset take a step that ends none. -/
theorem openTransactionEnds : Obligations.OpenTransactionEnds := by
  intro s inv busy
  have few : phasesLeft s ≤ 49 := phasesLeft_le inv
  exact open_transaction_ends _ s inv busy (Nat.add_le_add_right few _)

end Sys2Proof.Machine
end

section
/-! PROOF. Ticks between and beside transactions (spec/41_timer.md rules R152, R154, R155, R157, spec/20_memory.md rule R69,
spec/42_fade_blink_engine.md rule R184). -/

namespace Sys2Proof.Machine

/-! ### Runs of ticks -/

/-- Ticks fired one after another, whole. -/
theorem ticks_fired {s : State} (n : Nat) (unmasked : s.irqMask = false) :
    ticks n s = { s with time := s.time + BitVec.ofNat 32 n, updated := s.updated || n != 0 } := by
  induction n generalizing s with
  | zero => simp [ticks]
  | succ n ih =>
    rw [ticks, tickInterrupt_fired unmasked, ih (s := { s with time := s.time + 1#32, updated := true }) unmasked]
    have time : s.time + 1#32 + BitVec.ofNat 32 n = s.time + BitVec.ofNat 32 (n + 1) := by
      rw [BitVec.add_assoc, Nat.add_comm n 1, BitVec.ofNat_add]
    simp [time]

/-- A tick does not look at the inputs to come. -/
theorem tickInterrupt_with_inputs (s : State) (l : List Input) :
    tickInterrupt { s with inputs := l } = { tickInterrupt s with inputs := l } := by
  rw [tickInterrupt, tickInterrupt]
  split <;> rfl

/-- Compare-matches first among the inputs are so many steps. -/
theorem runSteps_ticks (n : Nat) (s : State) (l : List Input) :
    runSteps n { s with inputs := List.replicate n .tickEv ++ l } = .next { ticks n s with inputs := l } := by
  induction n generalizing s with
  | zero => rfl
  | succ n ih =>
    have first : step { s with inputs := List.replicate (n + 1) .tickEv ++ l } =
        .next { tickInterrupt s with inputs := List.replicate n .tickEv ++ l } :=
      (step_tickEv rfl).trans (congrArg Host.Outcome.next (tickInterrupt_with_inputs s _))
    rw [runSteps_next first]
    exact ih (tickInterrupt s)

/-- No more snapshots have the flag set than there are ticks, and the flag that was set at the start. -/
theorem flagged_snapshots_le (os : List TimerOp) (s : State) :
    ((snapshots os s).filter (·.updated)).length ≤ os.count .tick + (if s.updated then 1 else 0) := by
  induction os generalizing s with
  | nil => simp [snapshots]
  | cons o os ih =>
    cases o with
    | tick =>
      have later := ih (tickInterrupt s)
      have flag : (if (tickInterrupt s).updated then 1 else 0) ≤ 1 := by split <;> omega
      rw [snapshots, List.count_cons_self]
      omega
    | readAndClear =>
      have later := ih { s with updated := false }
      rw [if_neg (by simp)] at later
      rw [snapshots, readAndClear_snapshot, readAndClear_state, List.count_cons_of_ne (by decide), List.filter_cons]
      cases s.updated
      · simpa using later
      · simpa using later

/-! ### A tick beside a transaction -/

/-- A command transaction neither reads nor writes the timer's pair, nor what comes after its packet. -/
theorem runCommandWith_timer {integrity : List Byte → Word16} {bytes : List Byte} {s t : State}
    (run : runCommandWith integrity bytes s = .next t) (τ : Time) (u : Bool) (l : List Input) :
    runCommandWith integrity bytes { s with time := τ, updated := u, inputs := l } =
      .next { t with time := τ, updated := u, inputs := l } := by
  rw [runCommandWith] at run ⊢
  have opened := endTransaction_timer { s with seq := .cmd } τ u l
  split at run
  next n decoded => cases run
  next decoded => cases run; rw [opened]
  next op decoded => cases run; rw [opened]
  next i decoded =>
    rw [exec_eq] at run ⊢
    cases run
    have ran := commandEnd_timer i { s with seq := .cmd } τ u l
    exact congrArg Host.Outcome.next ((congrArg endTransaction ran).trans (endTransaction_timer _ τ u l))

/-- The step that takes the packet, with any timer's pair and whatever comes after it. -/
theorem stepWith_packet_timer {integrity : List Byte → Word16} {bytes : List Byte} {s t : State} (isIdle : s.seq = .idle)
    (run : runCommandWith integrity bytes s = .next t) (τ : Time) (u : Bool) (l : List Input) :
    stepWith integrity { s with time := τ, updated := u, inputs := .packet bytes :: l } =
      .next { t with time := τ, updated := u, inputs := l } :=
  (stepWith_packet_idle (s := { s with time := τ, updated := u, inputs := .packet bytes :: l }) rfl isIdle).trans
    (runCommandWith_timer run τ u l)

/-- Past its READ_AND_CLEAR a poll neither reads nor writes the timer's pair, nor what comes after it. -/
theorem afterSnapshot_timer (p : Snapshot) (v : State) (τ : Time) (u : Bool) (l : List Input) :
    afterSnapshot (p, { v with time := τ, updated := u, inputs := l }) =
      { afterSnapshot (p, v) with time := τ, updated := u, inputs := l } := by
  rw [afterSnapshot, afterSnapshot]
  split
  · exact (congrArg endTransaction (engine_timer _ v τ u l)).trans (endTransaction_timer _ τ u l)
  · exact endTransaction_timer v τ u l

/-- In the untimed grain a transaction leaves ticks unmasked. -/
theorem Transacts.irqMask {k : AfterRender} {v u : State} (transacts : Transacts k v u) (grain : v.phased = false)
    (unmasked : v.irqMask = false) : (endTransaction u).irqMask = false :=
  (endTransaction_irqMask u).trans ((transacts.renders.untimed grain).2.1 unmasked)

/-! ### The obligations -/

/-- Settles O28. -/
theorem maskedTickIsDropped : Obligations.MaskedTickIsDropped := by
  intro s rest next masked
  rw [step_tickEv next, tickInterrupt_masked (s := { s with inputs := rest }) masked]

/-- Settles O30: the tick of the cycle goes through the poll unread, and ends where a tick after the poll does. -/
theorem tickWithReadAndClearIsTickAfterPoll : Obligations.TickWithReadAndClearIsTickAfterPoll := by
  intro s rest isIdle unmasked grain
  let opened : State := { s with seq := .poll, updated := false }
  let ended : State := afterSnapshot ({ time := s.time, updated := s.updated }, opened)
  refine ⟨{ ended with time := s.time + 1#32, updated := true, inputs := rest }, runSteps_one ?_, runSteps_two
    (t := { ended with time := s.time, updated := false, inputs := .tickEv :: rest }) ?_ ?_⟩
  · have ticked : tickInterrupt { opened with inputs := rest } =
        { opened with time := s.time + 1#32, updated := true, inputs := rest } := tickInterrupt_fired unmasked
    rw [step_pollTick_idle (s := { s with inputs := .pollTick :: rest }) rfl isIdle]
    exact congrArg Host.Outcome.next ((congrArg (fun v => afterSnapshot ({ time := s.time, updated := s.updated }, v))
      ticked).trans (afterSnapshot_timer _ opened (s.time + 1#32) true rest))
  · rw [step_poll_idle (s := { s with inputs := .poll :: .tickEv :: rest }) rfl isIdle]
    exact congrArg Host.Outcome.next (afterSnapshot_timer _ opened s.time false (.tickEv :: rest))
  · have still : ended.irqMask = false := by
      obtain ⟨k, u, transacts, ends⟩ := runPoll_transacts s
      exact (congrArg State.irqMask ends).trans (transacts.irqMask grain unmasked)
    exact firedTickWritesTimeAndFlagOnly
      { ended with time := s.time, updated := false, inputs := .tickEv :: rest } rest rfl still

/-- Settles O31, from the closed form of a run of ticks. -/
theorem timeCountsFiredTicks : Obligations.TimeCountsFiredTicks := by
  intro n s unmasked
  rw [ticks_fired n unmasked]
  refine ⟨?_, rfl, fun some => ?_⟩
  · rw [readAndClear_snapshot, BitVec.toNat_add, BitVec.toNat_ofNat, Nat.add_mod_mod]
  · rw [bne_iff_ne.mpr some, Bool.or_true]

/-- Settles O32. -/
theorem elapsedFlagNeverOvercounts : Obligations.ElapsedFlagNeverOvercounts := flagged_snapshots_le

/-- Settles O33: the tick changes the timer's pair alone, which the command transaction passes through unread. -/
theorem tickCommutesWithCommandPackets : Obligations.TickCommutesWithCommandPackets := by
  intro s bytes rest isIdle unmasked grain ten
  obtain ⟨t, run⟩ := runCommandWith_next (integrity := integrity16) (s := s) ten
  have still : t.irqMask = false := by
    obtain ⟨k, u, transacts, rfl⟩ := runCommandWith_transacts run
    exact transacts.irqMask grain unmasked
  refine ⟨{ t with time := s.time + 1#32, updated := true, inputs := rest }, ?_, ?_⟩
  · have tick : step { s with inputs := .tickEv :: .packet bytes :: rest } =
        .next { s with time := s.time + 1#32, updated := true, inputs := .packet bytes :: rest } :=
      firedTickWritesTimeAndFlagOnly { s with inputs := .tickEv :: .packet bytes :: rest } _ rfl unmasked
    exact runSteps_two tick (stepWith_packet_timer isIdle run (s.time + 1#32) true rest)
  · have packet : step { s with inputs := .packet bytes :: .tickEv :: rest } =
        .next { t with time := s.time, updated := s.updated, inputs := .tickEv :: rest } :=
      stepWith_packet_timer isIdle run s.time s.updated (.tickEv :: rest)
    exact runSteps_two packet (firedTickWritesTimeAndFlagOnly
      { t with time := s.time, updated := s.updated, inputs := .tickEv :: rest } rest rfl still)

/-- Settles O44: the ticks add up, and the one poll finds the flag set and the last `time`. -/
theorem skippedTicksGiveOnePass : Obligations.SkippedTicksGiveOnePass := by
  intro n s rest isIdle unmasked next
  have ticked : runSteps (n + 1) s = .next { ticks (n + 1) s with inputs := .poll :: rest } := by
    have runs := runSteps_ticks (n + 1) s (.poll :: rest)
    rwa [← next] at runs
  have flag : (s.updated || n + 1 != 0) = true := by simp
  rw [ticks_fired (n + 1) unmasked, flag] at ticked
  rw [runSteps_add ticked 1]
  let due : State := { s with time := s.time + BitVec.ofNat 32 (n + 1), updated := true, inputs := .poll :: rest }
  exact runSteps_one ((step_poll_idle (s := due) rfl isIdle).trans
    (congrArg Host.Outcome.next (runPoll_set (s := { due with inputs := rest }) rfl)))

end Sys2Proof.Machine
end

section
/-! PROOF. The gamma ROM's steps, `RENDER`, and the phases of a frame: bits, levels, durations, and what pulses between them do
(spec/43_led_serializer.md rules R190 to R205). -/

namespace Sys2Proof

/-! ### The gamma ROM -/

theorem gammaIndex_ofNat {i : Nat} (range : i < 512) : (BitVec.ofNat 9 i : GammaIndex) = BitVec.ofFin ⟨i, range⟩ :=
  BitVec.eq_of_toNat_eq (Nat.mod_eq_of_lt range)

section

variable {g : GammaIndex → Byte}

/-- G-MONO in exact integers. -/
theorem gamma_mono (admissible : Config.GammaAdmissible g) {i j : Nat} (le : i ≤ j) (range : j < 512) :
    (g (BitVec.ofNat 9 i)).toNat ≤ (g (BitVec.ofNat 9 j)).toNat := by
  obtain ⟨mono, -⟩ := admissible
  rcases Nat.eq_or_lt_of_le le with rfl | lt
  · exact Nat.le_refl _
  · rw [gammaIndex_ofNat (lt.trans range), gammaIndex_ofNat range]
    exact mono ⟨i, lt.trans range⟩ ⟨j, range⟩ lt

/-- G-RANGE in exact integers. -/
theorem gamma_hits (admissible : Config.GammaAdmissible g) {y : Nat} (range : y < 256) :
    ∃ i, i < 512 ∧ (g (BitVec.ofNat 9 i)).toNat = y := by
  obtain ⟨-, -, -, hits⟩ := admissible
  obtain ⟨i, value⟩ := hits ⟨y, range⟩
  exact ⟨i.val, i.isLt, by rw [gammaIndex_ofNat i.isLt, value]; rfl⟩

/-- A step of 2 or more would leave out a value: on one side of it the table is below, on the other above. -/
theorem gamma_step (admissible : Config.GammaAdmissible g) {i : Nat} (range : i < 511) :
    (g (BitVec.ofNat 9 (i + 1))).toNat = (g (BitVec.ofNat 9 i)).toNat ∨
    (g (BitVec.ofNat 9 (i + 1))).toNat = (g (BitVec.ofNat 9 i)).toNat + 1 := by
  have rises := gamma_mono admissible (show i ≤ i + 1 by omega) (by omega)
  have lt := (g (BitVec.ofNat 9 (i + 1))).isLt
  by_contra jumps
  obtain ⟨j, inRange, value⟩ := gamma_hits admissible (y := (g (BitVec.ofNat 9 i)).toNat + 1) (by omega)
  rcases Nat.lt_or_ge i j with above | below
  · have := gamma_mono admissible (show i + 1 ≤ j from above) inRange
    omega
  · have := gamma_mono admissible below (by omega)
    omega

/-- The last entry is the greatest, and 255 is taken. -/
theorem gamma_last (admissible : Config.GammaAdmissible g) : g 511#9 = 255#8 := by
  obtain ⟨i, range, value⟩ := gamma_hits admissible (y := 255) (by omega)
  have le := gamma_mono admissible (show i ≤ 511 by omega) (by omega)
  have lt := (g 511#9).isLt
  exact BitVec.eq_of_toNat_eq (show (g 511#9).toNat = 255 by omega)

/-- Entry 1 is no zero, and one step above entry 0. -/
theorem gamma_one (admissible : Config.GammaAdmissible g) : g 1#9 = 1#8 := by
  have step := gamma_step admissible (i := 0) (by omega)
  obtain ⟨-, zero, onlyZero, -⟩ := admissible
  have pos : 1 ≤ (g 1#9).toNat := onlyZero 1 (by decide)
  have first : (g 0#9).toNat = 0 := congrArg BitVec.toNat zero
  exact BitVec.eq_of_toNat_eq (show (g 1#9).toNat = 1 by simp only [Nat.zero_add] at step; omega)

end

/-- Settles O45. -/
theorem gammaEndsAndSteps : Obligations.GammaEndsAndSteps :=
  ⟨fun _ admissible => ⟨admissible.2.1, gamma_one admissible, gamma_last admissible, fun _ => gamma_step admissible⟩,
    gamma_admissible⟩

end Sys2Proof

namespace Sys2Proof.Machine

/-! ### `RENDER` -/

theorem gammaIndex_eq_extract (v : Word16) : gammaIndex v = v.extractLsb' 7 9 := by
  apply BitVec.eq_of_toNat_eq
  simp [gammaIndex]

theorem render_get (v : Rgb) (s : State) (r : Reg) : (render v s).get r = s.get r :=
  State.get_congr (render_cur v s) (render_tgt v s) (render_rate v s) (render_duty v s) (render_period v s) r

/-- Each of three bytes side by side is read back from its place. -/
theorem extract_three_bytes (a b c : Byte) :
    (a ++ b ++ c).extractLsb' 16 8 = a ∧ (a ++ b ++ c).extractLsb' 8 8 = b ∧ (a ++ b ++ c).extractLsb' 0 8 = c := by
  have high : (a ++ b ++ c).extractLsb' 16 8 = (a ++ b).extractLsb' 8 8 := BitVec.extractLsb'_append_eq_of_le (by omega)
  have middle : (a ++ b ++ c).extractLsb' 8 8 = (a ++ b).extractLsb' 0 8 := BitVec.extractLsb'_append_eq_of_le (by omega)
  rw [high, middle]
  exact ⟨BitVec.extractLsb'_append_eq_left, BitVec.extractLsb'_append_eq_right, BitVec.extractLsb'_append_eq_right⟩

/-- Settles O46: the frame is three bytes side by side, and each is read back from its place. -/
theorem renderSendsGreenRedBlue : Obligations.RenderSendsGreenRedBlue := by
  intro v s
  obtain ⟨green, red, blue⟩ := extract_three_bytes (Config.gamma (gammaIndex v.green)) (Config.gamma (gammaIndex v.red))
    (Config.gamma (gammaIndex v.blue))
  rw [gammaIndex_eq_extract] at green red blue
  exact ⟨frameOf v, green, red, blue, render_sent v s, render_outside v s, render_get v s, render_status v s,
    render_indicator v s, render_afterRender v s⟩

/-! ### The phases of a frame -/

/-- Slot `j`, counted from 0: the line is high, and `j` bits are shifted out. -/
theorem serRun_slot (f : Frame) (s : State) {j : Nat} (range : j < 24) :
    serRun (2 * j) (serStart f s) =
      { s with serState := .shift, shreg := f <<< j, bitcnt := BitVec.ofNat 5 (23 - j), irqMask := true,
               ledDout := true } := by
  have half : 2 * j / 2 = j := by omega
  have high : (2 * j % 2 == 0) = true := by simp
  rw [serRun_shift f s (2 * j) (by omega), half, high]

/-- Settles O47: in slot `k`, `k - 1` bits are shifted out. -/
theorem kthBitOnTheWireIsBit24MinusK : Obligations.KthBitOnTheWireIsBit24MinusK := by
  intro f s k first last slot
  have start : slot = _ := serRun_slot f s (j := k - 1) (by omega)
  have place : 23 - (k - 1) = 24 - k := by omega
  rw [start, place]
  refine ⟨rfl, rfl, rfl, ?_, ?_⟩
  · rw [BitVec.toNat_ofNat]; omega
  · rw [BitVec.getMsbD_shiftLeft, Nat.zero_add, BitVec.getMsbD_eq_getLsbD, decide_eq_true (by omega), place,
      Bool.true_and]

theorem waveform_add (m n : Nat) (s : State) : waveform (m + n) s = waveform m s ++ waveform n (serRun m s) := by
  induction m generalizing s with
  | zero => simp [waveform, serRun]
  | succ m ih => rw [Nat.succ_add, waveform, waveform, ih, serRun]; rfl

/-- The levels and nominal lengths of the slot of one bit (spec/43_led_serializer.md rule R202). -/
def slotWave (bit : Bool) : List (Bool × Nat) :=
  if bit then [(true, 900), (false, 350)] else [(true, 350), (false, 900)]

/-- A slot from its rising edge on. -/
theorem waveform_two {s : State} (shift : s.serState = .shift) (high : s.ledDout = true) :
    waveform 2 s = slotWave (s.shreg.getMsbD 0) := by
  rw [waveform, waveform, waveform, serAdvance_high shift high]
  cases bit : s.shreg.getMsbD 0 <;> simp [phaseNs, shift, high, bit, slotWave, Config.t0hNs, Config.t1hNs, Config.slotNs]

/-- The slot of bit `j`, counted from the most significant. -/
theorem waveform_slot (f : Frame) (s : State) {j : Nat} (range : j < 24) :
    waveform 2 (serRun (2 * j) (serStart f s)) = slotWave (f.getMsbD j) := by
  rw [serRun_slot f s range, waveform_two rfl rfl, BitVec.getMsbD_shiftLeft, Nat.zero_add]

/-- The slots of the first `n` bits. -/
theorem waveform_slots (f : Frame) (s : State) {n : Nat} (range : n ≤ 24) :
    waveform (2 * n) (serStart f s) = (List.range n).flatMap (fun j => slotWave (f.getMsbD j)) := by
  induction n with
  | zero => rfl
  | succ n ih =>
    rw [Nat.mul_succ, waveform_add, ih (by omega), waveform_slot f s (by omega), List.range_succ, List.flatMap_append]
    simp

/-- The serializer after the 48 phases of the slots. -/
theorem serRun_slots (f : Frame) (s : State) :
    serRun 48 (serStart f s) =
      { s with serState := .latch, shreg := f <<< 23, bitcnt := 0#5, irqMask := false, ledDout := false } := by
  rw [serRun_succ, serRun_shift f s 47 (by omega)]
  rfl

/-- A slot lasts `TSLOT`, whatever its bit. -/
theorem slotWave_length (bit : Bool) : ((slotWave bit).map Prod.snd).sum = Config.slotNs := by
  cases bit <;> rfl

theorem slots_length (f : Frame) (n : Nat) :
    (((List.range n).flatMap (fun j => slotWave (f.getMsbD j))).map Prod.snd).sum = n * Config.slotNs := by
  induction n with
  | zero => simp
  | succ n ih =>
    rw [List.range_succ, List.flatMap_append, List.map_append, List.sum_append, ih, Nat.succ_mul]
    simp [slotWave_length]

/-- Settles O48: 24 slots, and the latch. -/
theorem waveformOfAFrame : Obligations.WaveformOfAFrame := by
  intro f s
  rw [waveform_add 48 1, waveform_slots f s (n := 24) (by omega), serRun_slots]
  rfl

theorem serRun_idle {s : State} (n : Nat) (idle : s.serState = .idle) : serRun n s = s := by
  induction n with
  | zero => rfl
  | succ n ih => rw [serRun, serAdvance_idle idle, ih]

/-- Ticks are masked for the phases of the slots, and no longer. -/
theorem serRun_irqMask (f : Frame) (s : State) (j : Nat) : (serRun j (serStart f s)).irqMask = decide (j < 48) := by
  rcases Nat.lt_trichotomy j 48 with before | latch | after
  · rw [serRun_shift f s j before, decide_eq_true before]
  · rw [latch, serRun_slots]
    rfl
  · obtain ⟨n, rfl⟩ : ∃ n, j = framePhases + n := ⟨j - 49, by rw [framePhases]; omega⟩
    rw [serRun_add, serRun_frame, serRun_idle n rfl, decide_eq_false (by omega)]
    rfl

/-- Settles O49: each slot lasts 1250 ns whatever its bit, and the latch 50000. -/
theorem frameTakesThirtyMaskedMicroseconds : Obligations.FrameTakesThirtyMaskedMicroseconds := by
  intro f s
  have slots : ((waveform 48 (serStart f s)).map Prod.snd).sum = 30000 := by
    rw [waveform_slots f s (n := 24) (by omega), slots_length]
    rfl
  refine ⟨fun j => ?_, slots, ?_⟩
  · rw [serRun_irqMask, decide_eq_true_iff]
  · have latch : (waveform 1 (serRun 48 (serStart f s))).map Prod.snd = [50000] := by rw [serRun_slots]; rfl
    rw [waveform_add 48 1, List.map_append, List.sum_append, slots, latch, List.sum_singleton]

/-! ### Pulses between the phases -/

/-- In the latch delay a tick and the end of the phase do not meet. -/
theorem serAdvance_tickInterrupt_latch {s : State} (latch : s.serState = .latch) :
    serAdvance (tickInterrupt s) = tickInterrupt (serAdvance s) := by
  rw [serAdvance_latch latch, serAdvance_latch ((tickInterrupt_serState s).trans latch), tickInterrupt, tickInterrupt]
  split <;> rfl

/-- With no phase left to end every pulse is a tick. -/
theorem cycleRun_after (es : List CycleEvent) (s : State) (ended : es.count .phaseEnd = 0) :
    cycleRun es s = ticks (pulsesAfter 0 es) s := by
  induction es generalizing s with
  | nil => rfl
  | cons e es ih =>
    cases e with
    | phaseEnd => rw [List.count_cons_self] at ended; cases ended
    | tickEv =>
      rw [List.count_cons_of_ne (by decide)] at ended
      rw [cycleRun, pulsesAfter, ticks, ih _ ended]

/-- In the latch delay, one phase from the end, every pulse is a tick. -/
theorem cycleRun_latch (es : List CycleEvent) (s : State) (latch : s.serState = .latch)
    (one : es.count .phaseEnd = 1) : cycleRun es s = ticks (pulsesAfter 0 es) (serAdvance s) := by
  induction es generalizing s with
  | nil => cases one
  | cons e es ih =>
    cases e with
    | phaseEnd =>
      rw [List.count_cons_self] at one
      exact cycleRun_after es (serAdvance s) (Nat.succ.inj one)
    | tickEv =>
      rw [List.count_cons_of_ne (by decide)] at one
      rw [cycleRun, pulsesAfter, ticks, ih _ ((tickInterrupt_serState s).trans latch) one,
        serAdvance_tickInterrupt_latch latch]

/-- In the slots, `k` phases from the latch, every pulse is lost. -/
theorem cycleRun_slots (es : List CycleEvent) (f : Frame) (s : State) (k : Nat) (range : k ≤ 48)
    (left : es.count .phaseEnd = k + 1) :
    cycleRun es (serRun (48 - k) (serStart f s)) = ticks (pulsesAfter k es) (serRest s) := by
  induction es generalizing k with
  | nil => cases left
  | cons e es ih =>
    cases k with
    | zero =>
      have last : serAdvance (serRun 48 (serStart f s)) = serRest s :=
        (serRun_succ 48 _).symm.trans (serRun_frame f s)
      rw [← last]
      exact cycleRun_latch _ _ (by rw [serRun_slots]) left
    | succ k =>
      cases e with
      | phaseEnd =>
        rw [List.count_cons_self] at left
        have next : serAdvance (serRun (48 - (k + 1)) (serStart f s)) = serRun (48 - k) (serStart f s) := by
          rw [← serRun_succ, show 48 - (k + 1) + 1 = 48 - k by omega]
        rw [cycleRun, pulsesAfter, next]
        exact ih k (by omega) (Nat.succ.inj left)
      | tickEv =>
        rw [List.count_cons_of_ne (by decide)] at left
        have masked : (serRun (48 - (k + 1)) (serStart f s)).irqMask = true := by
          rw [serRun_irqMask, decide_eq_true_iff]; omega
        rw [cycleRun, pulsesAfter, tickInterrupt_masked masked]
        exact ih (k + 1) range left

/-- Settles O50, by induction on the events: lost in the slots, taken in the latch delay and after it. -/
theorem pulsesInTheMaskedWindowAreLost : Obligations.PulsesInTheMaskedWindowAreLost :=
  fun es f s all => cycleRun_slots es f s 48 (by omega) all

end Sys2Proof.Machine
end

section
/-! PROOF. Runs of ticks that are each polled (spec/42_fade_blink_engine.md rules R181, R182). -/

namespace Sys2Proof.Machine

/-! ### One polled tick -/

/-- What a tick and the poll after it lead to from `s`: one engine pass at the next `time`. -/
structure PolledTick (rest : List Input) (s t : State) : Prop where
  run : runSteps 2 s = .next t
  inv : t.Inv
  phased : t.phased = false
  inputs : t.inputs = rest
  time : t.time = s.time + 1#32
  cur : t.cur = fadeRgb s.rate s.cur s.tgt
  tgt : t.tgt = s.tgt
  rate : t.rate = s.rate
  duty : t.duty = s.duty
  period : t.period = s.period
  frames : t.frames = s.frames ++ if engineSends (s.time + 1#32) s then [frameOf (engineColour (s.time + 1#32) s)] else []

theorem polledTick {s : State} {rest : List Input} (inv : s.Inv) (untimed : s.phased = false)
    (next : s.inputs = .tickEv :: .poll :: rest) : ∃ t, PolledTick rest s t := by
  have isIdle := inv.untimed_closed untimed
  have unmasked := (inv.serIdle (inv.open_iff.mp isIdle)).irqMask
  let v : State := { s with time := s.time + 1#32, updated := false, seq := .poll, inputs := rest }
  have opened : Opens s v := ⟨s.time + 1#32, false, .poll, rest, nofun, rfl⟩
  have transacts : Transacts (.heartbeat (s.time + 1#32)) v (engine (s.time + 1#32) v) := transacts_engine _ rfl
  obtain ⟨get, -⟩ := transacts.ends opened inv isIdle
  exact ⟨_, {
    run := skippedTicksGiveOnePass 0 s rest isIdle unmasked next
    inv := transacts.inv opened inv isIdle
    phased := (endTransaction_phased _).trans ((engine_phased _ v).trans untimed)
    inputs := (endTransaction_inputs _).trans (engine_inputs _ v)
    time := (endTransaction_time _).trans (engine_time _ v)
    cur := (endTransaction_cur _).trans (engine_cur _ v)
    tgt := Rgb.ext_get fun c => (get (.tgt c)).trans (congrArg (Rgb.get · c) (engine_tgt _ v))
    rate := (endTransaction_rate _).trans (engine_rate _ v)
    duty := (endTransaction_duty _).trans (engine_duty _ v)
    period := (endTransaction_period _).trans (engine_period _ v)
    frames := (endTransaction_frames _).trans (engine_frames _ v) }⟩

theorem PolledTick.cur_of_settled {rest : List Input} {s t : State} (polled : PolledTick rest s t)
    (settled : s.cur = s.tgt) : t.cur = s.cur := by
  rw [polled.cur, ← settled, fadeRgb_self]

theorem PolledTick.time_toNat {rest : List Input} {s t : State} (polled : PolledTick rest s t)
    (noWrap : s.time.toNat + 1 < 2 ^ 32) : t.time.toNat = s.time.toNat + 1 := by
  rw [polled.time, BitVec.toNat_add]
  exact Nat.mod_eq_of_lt noWrap

/-- A run of polled ticks is the first one and the run of the others. -/
theorem PolledTick.run_succ {rest : List Input} {s t u : State} {n : Nat} (polled : PolledTick rest s u)
    (run : runSteps (2 * n) u = .next t) : runSteps (2 * (n + 1)) s = .next t := by
  rw [Nat.mul_succ, Nat.add_comm, runSteps_add polled.run]
  exact run

/-! ### A fade -/

/-- A step of the fade upward, in exact integers: a rate nearer, and no further than the target. -/
theorem fadeChannel_up {rate cur tgt : Word16} (up : cur ≤ tgt) :
    (fadeChannel rate cur tgt).toNat = min tgt.toNat (cur.toNat + rate.toNat) := by
  obtain ⟨stays, rises, -⟩ := fadeChannel_toNat rate cur tgt
  have le : cur.toNat ≤ tgt.toNat := up
  omega

/-- A step of the fade downward. -/
theorem fadeChannel_down {rate cur tgt : Word16} (down : tgt ≤ cur) :
    (fadeChannel rate cur tgt).toNat = max tgt.toNat (cur.toNat - rate.toNat) := by
  obtain ⟨stays, -, falls⟩ := fadeChannel_toNat rate cur tgt
  have le : tgt.toNat ≤ cur.toNat := down
  omega

/-! ### A blink -/

/-- The lamp shows the colour in the first `duty` instants of a period, and black in the others. -/
def ShowsBlink (s : State) : Prop :=
  s.ledShown = some (if s.time.toNat % s.period.toNat < s.duty.toNat then frameOf s.cur else 0x000000#24)

/-- One more instant of a remainder: the next number, or 0 at the end of the period. -/
theorem succ_mod (t : Nat) {period : Nat} (more : 1 < period) :
    (t + 1) % period = t % period + 1 ∨ (t + 1) % period = 0 := by
  have below := Nat.mod_lt t (Nat.zero_lt_of_lt more)
  rw [Nat.add_mod_eq_ite, Nat.mod_eq_of_lt more]
  split <;> omega

/-- With no fade a pass sends at the two instants of the blink, black at `duty` and the colour at 0. -/
theorem engine_frames_of_settled {s : State} (τ : Time) (settled : s.cur = s.tgt) (on : s.period ≠ 0#16) :
    (if engineSends τ s then [frameOf (engineColour τ s)] else []) =
      if τ.toNat % s.period.toNat = s.duty.toNat then [0x000000#24]
      else if τ.toNat % s.period.toNat = 0 then [frameOf s.cur] else [] := by
  rw [engineSends, engineColour, ← settled, changedFlag_self, fadeRgb_self, blinkOverlay_on s.duty τ on]
  by_cases atDuty : τ.toNat % s.period.toNat = s.duty.toNat
  · simp [atDuty]
  · by_cases atZero : τ.toNat % s.period.toNat = 0
    · have noDuty : 0 ≠ s.duty.toNat := atZero ▸ atDuty
      simp [atZero, noDuty]
    · simp [atDuty, atZero]

/-- A polled tick keeps the blink shown, and starts it at a colour instant. -/
theorem PolledTick.showsBlink {rest : List Input} {s t : State} (polled : PolledTick rest s t) (settled : s.cur = s.tgt)
    (noWrap : s.time.toNat + 1 < 2 ^ 32) (dutyPos : 0#16 < s.duty) (dutyLt : s.duty < s.period)
    (shown : ShowsBlink s ∨ (s.time.toNat + 1) % s.period.toNat = 0) : ShowsBlink t := by
  have pos : 0 < s.duty.toNat := dutyPos
  have lt : s.duty.toNat < s.period.toNat := dutyLt
  have on : s.period ≠ 0#16 := by rintro off; rw [off] at lt; exact absurd lt (Nat.not_lt_zero _)
  have time : (s.time + 1#32).toNat = s.time.toNat + 1 := by
    rw [BitVec.toNat_add]; exact Nat.mod_eq_of_lt noWrap
  have cur := polled.cur_of_settled settled
  have frames := polled.frames
  rw [engine_frames_of_settled _ settled on, time] at frames
  rw [ShowsBlink, State.ledShown, frames, polled.time, time, polled.period, polled.duty, cur]
  by_cases atDuty : (s.time.toNat + 1) % s.period.toNat = s.duty.toNat
  · simp [atDuty]
  · by_cases atZero : (s.time.toNat + 1) % s.period.toNat = 0
    · simp [atZero, pos, pos.ne]
    · have before := shown.resolve_right atZero
      have next := (succ_mod s.time.toNat (by omega)).resolve_right atZero
      have same : (s.time.toNat + 1) % s.period.toNat < s.duty.toNat ↔
          s.time.toNat % s.period.toNat < s.duty.toNat := by omega
      rw [if_neg atDuty, if_neg atZero, List.append_nil]
      simp only [same]
      exact before

/-- Polled ticks keep the blink shown as long as `time` does not wrap. -/
theorem runSteps_showsBlink (n : Nat) (s : State) (rest : List Input) (inv : s.Inv) (untimed : s.phased = false)
    (settled : s.cur = s.tgt) (next : s.inputs = tickPolls n ++ rest) (noWrap : s.time.toNat + n < 2 ^ 32)
    (dutyPos : 0#16 < s.duty) (dutyLt : s.duty < s.period) (shown : ShowsBlink s) :
    ∃ t, runSteps (2 * n) s = .next t ∧ ShowsBlink t ∧ t.time.toNat = s.time.toNat + n ∧ t.cur = s.cur ∧
      t.duty = s.duty ∧ t.period = s.period := by
  induction n generalizing s with
  | zero => exact ⟨s, rfl, shown, rfl, rfl, rfl, rfl⟩
  | succ n ih =>
    obtain ⟨u, polled⟩ := polledTick (rest := tickPolls n ++ rest) inv untimed next
    have cur := polled.cur_of_settled settled
    have time := polled.time_toNat (by omega)
    obtain ⟨t, run, shows, time', cur', duty, period⟩ := ih u polled.inv polled.phased
      (by rw [cur, settled, polled.tgt]) polled.inputs (by omega) (by rwa [polled.duty])
      (by rwa [polled.duty, polled.period]) (polled.showsBlink settled (by omega) dutyPos dutyLt (.inl shown))
    exact ⟨t, polled.run_succ run, shows, by omega, cur'.trans cur, duty.trans polled.duty, period.trans polled.period⟩

/-! ### The obligations -/

/-- Settles O42, by induction on the number of polled ticks, each of which is one step of the fade. -/
theorem fadeIsLinearOverPolledTicks : Obligations.FadeIsLinearOverPolledTicks := by
  intro n
  induction n with
  | zero =>
    intro s rest _ _ next
    refine ⟨s, rfl, next, rfl, fun c => ⟨fun up => ?_, fun down => ?_⟩⟩
    · have le : (s.cur.get c).toNat ≤ (s.tgt.get c).toNat := up
      omega
    · have le : (s.tgt.get c).toNat ≤ (s.cur.get c).toNat := down
      omega
  | succ n ih =>
    intro s rest inv untimed next
    obtain ⟨u, polled⟩ := polledTick (rest := tickPolls n ++ rest) inv untimed next
    obtain ⟨t, run, inputs, tgt, channels⟩ := ih u rest polled.inv polled.phased polled.inputs
    refine ⟨t, polled.run_succ run, inputs, tgt.trans polled.tgt, fun c => ?_⟩
    obtain ⟨up', down'⟩ := channels c
    rw [polled.cur, polled.tgt, polled.rate, fadeRgb_get, BitVec.le_def] at up' down'
    rw [Nat.succ_mul]
    refine ⟨fun up => ?_, fun down => ?_⟩
    · rw [fadeChannel_up up] at up'
      have later := up' (by omega)
      omega
    · rw [fadeChannel_down down] at down'
      have later := down' (by omega)
      omega

/-- Settles O43: the first polled tick shows the colour, and every later one keeps the blink shown. -/
theorem blinkShowsColourThenBlack : Obligations.BlinkShowsColourThenBlack := by
  intro n s rest inv untimed settled next some noWrap colourInstant dutyPos dutyLt
  obtain ⟨n, rfl⟩ : ∃ m, n = m + 1 := ⟨n - 1, by omega⟩
  obtain ⟨u, polled⟩ := polledTick (rest := tickPolls n ++ rest) inv untimed next
  have shown := polled.showsBlink settled (by omega) dutyPos dutyLt (.inr colourInstant)
  have cur := polled.cur_of_settled settled
  have time := polled.time_toNat (by omega)
  obtain ⟨t, run, shows, time', cur', duty, period⟩ := runSteps_showsBlink n u rest polled.inv polled.phased
    (by rw [cur, settled, polled.tgt]) polled.inputs (by omega) (by rwa [polled.duty])
    (by rwa [polled.duty, polled.period]) shown
  refine ⟨t, polled.run_succ run, ?_⟩
  rw [ShowsBlink, time', time, cur', cur, duty, polled.duty, period, polled.period] at shows
  rw [shows, Nat.add_assoc, Nat.add_comm 1 n]

end Sys2Proof.Machine
end

section
/-! PROOF. A transaction stepped phase by phase ends where the atomic one does (spec/20_memory.md rule R69,
spec/43_led_serializer.md rules R190, R200). -/

namespace Sys2Proof.Machine

/-! ### Operations that do not look at the inputs to come, or at the grain -/

/-- An operation that passes the timer's pair and the inputs through unread, and keeps the pair, passes the inputs through. -/
theorem with_inputs_of_timer {op : State → State} (time : ∀ s, (op s).time = s.time)
    (updated : ∀ s, (op s).updated = s.updated)
    (passes : ∀ (s : State) (τ : Time) (u : Bool) (l : List Input),
      op { s with time := τ, updated := u, inputs := l } = { op s with time := τ, updated := u, inputs := l })
    (s : State) (l : List Input) : op { s with inputs := l } = { op s with inputs := l } :=
  (passes s s.time s.updated l).trans (by rw [← time s, ← updated s])

theorem commandEnd_with_inputs (i : Instr) (s : State) (l : List Input) :
    commandEnd i { s with inputs := l } = { commandEnd i s with inputs := l } :=
  with_inputs_of_timer (fun s => (commandEnd_outside i s).time) (fun s => (commandEnd_outside i s).updated)
    (commandEnd_timer i) s l

theorem engine_with_inputs (τ : Time) (s : State) (l : List Input) :
    engine τ { s with inputs := l } = { engine τ s with inputs := l } :=
  with_inputs_of_timer (engine_time τ) (engine_updated τ) (engine_timer τ) s l

theorem endTransaction_with_inputs (s : State) (l : List Input) :
    endTransaction { s with inputs := l } = { endTransaction s with inputs := l } :=
  with_inputs_of_timer endTransaction_time endTransaction_updated endTransaction_timer s l

theorem serAdvance_with_inputs (s : State) (l : List Input) :
    serAdvance { s with inputs := l } = { serAdvance s with inputs := l } := by
  have serializer : s.serState = .idle ∨ s.serState = .latch ∨ s.serState = .shift := by cases s.serState <;> simp
  rcases serializer with idle | latch | shift
  · rw [serAdvance_idle idle, serAdvance_idle (s := { s with inputs := l }) idle]
  · rw [serAdvance_latch latch, serAdvance_latch (s := { s with inputs := l }) latch]
  · rcases Bool.eq_false_or_eq_true s.ledDout with high | low
    · rw [serAdvance_high shift high, serAdvance_high (s := { s with inputs := l }) shift high]
    · by_cases last : s.bitcnt = 0#5
      · rw [serAdvance_low_last shift low last, serAdvance_low_last (s := { s with inputs := l }) shift low last]
      · rw [serAdvance_low_next shift low last, serAdvance_low_next (s := { s with inputs := l }) shift low last]

theorem advancePhase_with_inputs (s : State) (l : List Input) :
    advancePhase { s with inputs := l } = { advancePhase s with inputs := l } := by
  rw [advancePhase, serAdvance_with_inputs, endTransaction_with_inputs]
  rfl

/-- The end of a transaction does not depend on the grain. -/
theorem endTransaction_with_phased (s : State) (grain : Bool) :
    endTransaction { s with phased := grain } = { endTransaction s with phased := grain } := by
  rcases s with ⟨_, _, _, _, _, _, _, _, _, _, _, seq, serState, _, _, k, _, _, _, _, _⟩
  cases serState <;> cases k <;> cases seq <;> rfl

/-! ### Runs of phases -/

/-- Phase ends first among the inputs are so many phases. -/
theorem runSteps_phases (n : Nat) (s : State) (l : List Input) :
    runSteps n { s with inputs := List.replicate n .phaseEnd ++ l } = .next { advancePhase^[n] s with inputs := l } := by
  induction n generalizing s with
  | zero => rfl
  | succ n ih =>
    have first : step { s with inputs := List.replicate (n + 1) .phaseEnd ++ l } =
        .next { advancePhase s with inputs := List.replicate n .phaseEnd ++ l } :=
      (step_phaseEnd rfl).trans (congrArg Host.Outcome.next (advancePhase_with_inputs s _))
    rw [runSteps_next first]
    exact ih (advancePhase s)

/-- In the slots the phases of a transaction are those of its serializer. -/
theorem advancePhase_iterate_slots (f : Frame) (s : State) {n : Nat} (range : n ≤ 48) :
    advancePhase^[n] (serStart f s) = serRun n (serStart f s) := by
  induction n with
  | zero => rfl
  | succ n ih =>
    have shift : (serRun n (serStart f s)).serState = .shift := by rw [serRun_shift f s n (by omega)]
    rw [Function.iterate_succ_apply', ih (by omega), advancePhase_shift shift, serRun_succ]

/-- The phases of a whole frame end the transaction that waits for it. -/
theorem advancePhase_iterate_frame (f : Frame) (s : State) :
    advancePhase^[49] (serStart f s) = endTransaction (serRest s) := by
  rw [Function.iterate_succ_apply', advancePhase_iterate_slots f s (Nat.le_refl 48), advancePhase, ← serRun_succ]
  exact congrArg endTransaction (serRun_frame f s)

/-! ### The two grains -/

/-- 49 phases lead from where `p`, stepped phase by phase, ends or waits to where the whole `w` ends. -/
def Refines (p w : State) : Prop := advancePhase^[49] (endTransaction p) = { endTransaction w with phased := true }

/-- Where nothing is sent, the phases find the transaction ended. -/
theorem refines_quiet {u : State} (idle : u.serState = .idle) (nothing : u.afterRender = .nothing) :
    Refines { u with phased := true } u := by
  have ended : (endTransaction u).afterRender = .nothing := by
    rw [endTransaction_nothing idle nothing, closeTransaction_afterRender, nothing]
  rw [Refines, endTransaction_with_phased]
  exact Function.iterate_fixed
    (advancePhase_idle (s := { endTransaction u with phased := true }) ((endTransaction_serState u).trans idle) ended
      (endTransaction_seq_idle idle)) 49

/-- What waits for a `RENDER` and is done when it returns might as well have been done at once. -/
theorem endTransaction_waiting {s : State} (k : AfterRender) (idle : s.serState = .idle)
    (nothing : s.afterRender = .nothing) :
    endTransaction { s with afterRender := k } = endTransaction (runAfterRender k s) := by
  have settled : (runAfterRender k s).afterRender = .nothing := (runAfterRender_afterRender k s).trans nothing
  have returns : renderReturns { s with afterRender := k } = runAfterRender k s := by rw [renderReturns, ← nothing]
  rw [endTransaction_nothing ((runAfterRender_serState k s).trans idle) settled,
    endTransaction_idle (s := { s with afterRender := k }) idle, returns]

/-- A `RENDER` and what follows it: the frame's phases, and then what waited. -/
theorem refines_renderThen {v : State} (c : Rgb) (k : AfterRender) (grain : v.phased = false)
    (nothing : v.afterRender = .nothing) : Refines (renderThen c k { v with phased := true }) (renderThen c k v) := by
  let sent : State := { v with frames := v.frames ++ [frameOf c] }
  have phased : renderThen c k { v with phased := true } =
      serStart (frameOf c) { sent with phased := true, afterRender := k } := rfl
  have whole : renderThen c k v = runAfterRender k (serRest sent) := by
    rw [renderThen_whole grain, render, emit_whole grain]
  have ends : endTransaction (serRest { sent with afterRender := k }) = endTransaction (runAfterRender k (serRest sent)) :=
    endTransaction_waiting (s := serRest sent) k rfl nothing
  have waits := endTransaction_open (s := serStart (frameOf c) { sent with phased := true, afterRender := k }) nofun
  rw [Refines, phased, whole, waits, advancePhase_iterate_frame, ← ends]
  exact endTransaction_with_phased (serRest { sent with afterRender := k }) true

/-- A command's phases lead where the whole command does. -/
theorem refines_command (i : Instr) {v : State} (idle : v.serState = .idle) (grain : v.phased = false)
    (nothing : v.afterRender = .nothing) : Refines (commandEnd i { v with phased := true }) (commandEnd i v) := by
  have writes : beforeRender i { v with phased := true } = { beforeRender i v with phased := true } := by
    have kept := beforeRender_timer i v v.time v.updated v.inputs true
    rw [kept, ← (beforeRender_outside i v).time, ← (beforeRender_outside i v).updated,
      ← (beforeRender_outside i v).inputs]
  have quiet := beforeRender_nothingSent i v
  cases renders : rendersFrame i
  · rw [commandEnd_silent _ renders, commandEnd_silent _ renders, writes]
    exact refines_quiet (quiet.serState.trans idle) (quiet.afterRender.trans nothing)
  · rw [commandEnd_renders _ renders, commandEnd_renders _ renders, writes]
    exact refines_renderThen _ _ ((beforeRender_outside i v).phased.trans grain) (quiet.afterRender.trans nothing)

/-- An engine pass's phases lead where the whole pass does. -/
theorem refines_engine (τ : Time) {v : State} (idle : v.serState = .idle) (grain : v.phased = false)
    (nothing : v.afterRender = .nothing) : Refines (engine τ { v with phased := true }) (engine τ v) := by
  cases sends : engineSends τ v
  · rw [engine_silent sends, engine_silent (s := { v with phased := true }) sends]
    exact refines_quiet (u := heartbeat τ (fadeStep v)) idle nothing
  · rw [engine_sends sends, engine_sends (s := { v with phased := true }) sends]
    exact refines_renderThen (v := fadeStep v) _ _ grain nothing

/-- The input `x` from `s`, in one step of the untimed grain and in 50 of the phased one, leads to the same end. -/
def EndsAlike (s : State) (x : Input) (rest : List Input) : Prop :=
  ∃ t, step { s with inputs := x :: rest } = .next t ∧
    runSteps 50 { s with inputs := x :: (List.replicate 49 .phaseEnd ++ rest), phased := true } =
      .next { t with phased := true }

/-- A step that opens a transaction and runs `op` in it, in both grains: the phased run ends where the whole step does. -/
theorem endsAlike_of_refines {op : State → State} {x : Input} {s v : State} (rest : List Input)
    (first : ∀ (l : List Input) (grain : Bool), step { s with inputs := x :: l, phased := grain } =
      .next (endTransaction (op { v with inputs := l, phased := grain })))
    (passes : ∀ (v : State) (l : List Input), op { v with inputs := l } = { op v with inputs := l })
    (refines : Refines (op { v with phased := true }) (op v)) (sameGrain : v.phased = s.phased) :
    EndsAlike s x rest := by
  have ended : ∀ (w : State) (l : List Input),
      endTransaction (op { w with inputs := l }) = { endTransaction (op w) with inputs := l } := fun w l =>
    (congrArg endTransaction (passes w l)).trans (endTransaction_with_inputs (op w) l)
  refine ⟨{ endTransaction (op v) with inputs := rest }, ?_, ?_⟩
  · exact (first rest s.phased).trans (by rw [← sameGrain, ended])
  · have leads : advancePhase^[49] (endTransaction (op { v with phased := true })) =
        { endTransaction (op v) with phased := true } := refines
    calc runSteps 50 { s with inputs := x :: (List.replicate 49 Input.phaseEnd ++ rest), phased := true }
      _ = runSteps 49 (endTransaction
            (op { v with inputs := List.replicate 49 Input.phaseEnd ++ rest, phased := true })) :=
          runSteps_next (first _ true) 49
      _ = runSteps 49 { endTransaction (op { v with phased := true }) with
            inputs := List.replicate 49 Input.phaseEnd ++ rest } :=
          congrArg (runSteps 49) (ended { v with phased := true } _)
      _ = .next { advancePhase^[49] (endTransaction (op { v with phased := true })) with inputs := rest } :=
          runSteps_phases 49 _ rest
      _ = _ := by rw [leads]

section

variable {s : State} (rest : List Input) (isIdle : s.seq = .idle) (idle : s.serState = .idle)
  (nothing : s.afterRender = .nothing) (grain : s.phased = false)

include isIdle idle nothing grain

/-- A packet's transaction runs its command or nothing. -/
theorem endsAlike_packet {bytes : List Byte} (ten : bytes.length = 10) : EndsAlike s (.packet bytes) rest := by
  have taken (l : List Input) (b : Bool) : step { s with inputs := .packet bytes :: l, phased := b } =
      runCommandWith integrity16 bytes { s with inputs := l, phased := b } :=
    step_packet_idle (s := { s with inputs := .packet bytes :: l, phased := b }) rfl isIdle
  let v : State := { s with seq := .cmd }
  have quiet : Refines { v with phased := true } v := refines_quiet (u := v) idle nothing
  match decoded : decode bytes with
  | .command i =>
    exact endsAlike_of_refines (op := commandEnd i) (v := v) rest
      (fun l b => (taken l b).trans (runCommandWith_command decoded (exec_eq i _)))
      (commandEnd_with_inputs i) (refines_command i (v := v) idle grain nothing) rfl
  | .dropped =>
    exact endsAlike_of_refines (op := id) (v := v) rest (fun l b => (taken l b).trans (runCommandWith_dropped decoded))
      (fun _ _ => rfl) quiet rfl
  | .unrecognized op =>
    exact endsAlike_of_refines (op := id) (v := v) rest (fun l b => (taken l b).trans (runCommandWith_unrecognized decoded))
      (fun _ _ => rfl) quiet rfl
  | .wrongLength n => exact absurd ten (decodeWith_wrongLength decoded).2

/-- A poll's transaction runs the engine or nothing. -/
theorem endsAlike_poll : EndsAlike s .poll rest := by
  have taken (l : List Input) (b : Bool) : step { s with inputs := .poll :: l, phased := b } =
      .next (runPoll { s with inputs := l, phased := b }) :=
    step_poll_idle (s := { s with inputs := .poll :: l, phased := b }) rfl isIdle
  let v : State := { s with seq := .poll, updated := false }
  by_cases flag : s.updated = true
  · have runs (l : List Input) (b : Bool) := runPoll_set (s := { s with inputs := l, phased := b }) flag
    exact endsAlike_of_refines (op := engine s.time) (v := v) rest (fun l b => (taken l b).trans (congrArg _ (runs l b)))
      (engine_with_inputs s.time) (refines_engine s.time (v := v) idle grain nothing) rfl
  · have runs (l : List Input) (b : Bool) :=
      runPoll_clear (s := { s with inputs := l, phased := b }) (eq_false_of_ne_true flag)
    exact endsAlike_of_refines (op := id) (v := v) rest (fun l b => (taken l b).trans (congrArg _ (runs l b)))
      (fun _ _ => rfl) (refines_quiet (u := v) idle nothing) rfl

/-- So does that of a poll with a compare-match, whose tick is over before the engine runs. -/
theorem endsAlike_pollTick (unmasked : s.irqMask = false) : EndsAlike s .pollTick rest := by
  have taken (l : List Input) (b : Bool) : step { s with inputs := .pollTick :: l, phased := b } =
      .next (runPollTick { s with inputs := l, phased := b }) :=
    step_pollTick_idle (s := { s with inputs := .pollTick :: l, phased := b }) rfl isIdle
  let v : State := { s with seq := .poll, time := s.time + 1#32, updated := true }
  have ticked (l : List Input) (b : Bool) :
      tickInterrupt { s with inputs := l, phased := b, seq := .poll, updated := false } =
        { v with inputs := l, phased := b } :=
    tickInterrupt_fired (s := { s with inputs := l, phased := b, seq := .poll, updated := false }) unmasked
  by_cases flag : s.updated = true
  · have runs (l : List Input) (b : Bool) := runPollTick_set (s := { s with inputs := l, phased := b }) flag
    exact endsAlike_of_refines (op := engine s.time) (v := v) rest
      (fun l b => (taken l b).trans (congrArg _ ((runs l b).trans (by rw [ticked]))))
      (engine_with_inputs s.time) (refines_engine s.time (v := v) idle grain nothing) rfl
  · have runs (l : List Input) (b : Bool) :=
      runPollTick_clear (s := { s with inputs := l, phased := b }) (eq_false_of_ne_true flag)
    exact endsAlike_of_refines (op := id) (v := v) rest
      (fun l b => (taken l b).trans (congrArg _ ((runs l b).trans (congrArg endTransaction (ticked l b)))))
      (fun _ _ => rfl) (refines_quiet (u := v) idle nothing) rfl

end

/-! ### The obligation -/

/-- Settles O51: a command, an engine pass, and a transaction with neither, each lead to the same end in both grains. -/
theorem phasedTransactionEndsAsTheAtomicOne : Obligations.PhasedTransactionEndsAsTheAtomicOne := by
  intro s x rest inv grain kinds
  have isIdle := inv.untimed_closed grain
  have idle := inv.open_iff.mp isIdle
  have nothing := inv.waits_in_render idle
  rcases kinds with ⟨bytes, rfl, ten⟩ | rfl | rfl
  · exact endsAlike_packet rest isIdle idle nothing grain ten
  · exact endsAlike_poll rest isIdle idle nothing grain
  · exact endsAlike_pollTick rest isIdle idle nothing grain (inv.serIdle idle).irqMask

end Sys2Proof.Machine
end
